-- ==== Sys2Proof/Word.lean ====
section
/-! DEFINITION. The widths of spec/00_scope.md rules R4 and R7: a byte is 8 bits, an accumulator and every word operation
is 32 bits, LEN is 64 bits. All values are unsigned. `x +32 y` and `x +64 y` are `BitVec` addition (the carry out is
discarded, rules R7, R76, R99). -/

namespace Sys2Proof

/-- A byte of CMD, RSP or BUF (R30: 8 bits everywhere). -/
abbrev Byte := BitVec 8

/-- An accumulator or a message word (R4 `WORD`: 32 bits, unsigned). -/
abbrev Word := BitVec 32

/-- The bit counter's width (R4 `LENW`: 64 bits, wraps mod 2^64). -/
abbrev Len := BitVec 64

end Sys2Proof
end

