-- ==== Sys2Proof/Machine/Bytes.lean ====
section
/-! DEFINITION. Byte order: every multi-byte quantity of the engine is little-endian (spec/20_memory.md rule R31, notation of
spec/00_scope.md rule R7). -/

namespace Sys2Proof.Machine

/-- `word_le(b0,b1,b2,b3) = b0 + 2^8*b1 + 2^16*b2 + 2^24*b3` (R7). -/
def wordLe (b0 b1 b2 b3 : Byte) : Word := b3 ++ b2 ++ b1 ++ b0

/-- `le32(v)`: the 4 bytes of a word, least significant first (R7). -/
def le32 (v : Word) : List Byte :=
  [v.extractLsb' 0 8, v.extractLsb' 8 8, v.extractLsb' 16 8, v.extractLsb' 24 8]

/-- `le64(v)`: the 8 bytes of the bit counter, least significant first (R7). -/
def le64 (v : Len) : List Byte :=
  [v.extractLsb' 0 8, v.extractLsb' 8 8, v.extractLsb' 16 8, v.extractLsb' 24 8,
   v.extractLsb' 32 8, v.extractLsb' 40 8, v.extractLsb' 48 8, v.extractLsb' 56 8]

/-- The digest layout of R34: the four accumulators in order A, B, C, D, each least significant byte first. -/
def digestBytes (a b c d : Word) : List Byte := le32 a ++ le32 b ++ le32 c ++ le32 d

end Sys2Proof.Machine
end

