-- ==== Sys2Proof/Syntax.lean ====
section
/-! DEFINITION. The instructions of spec/opcode_table.json: the three host commands INIT, APPEND, FINISH (format C0, C1,
spec/30_encoding.md rules R50, R53), the reserved opcode bytes ILLEGAL(op) (R54, R55; the seven ILLEGAL rows of the table
tile the one range that `illegal op` carries), and the 64 internal steps STEP0 to STEP63 (format S, R61; the host cannot
issue one). Beside it, the two encoding spaces (command bytes and the 6-bit step index) and the answers of the decoder. -/

namespace Sys2Proof

/-- One constructor per mnemonic of spec/opcode_table.json. -/
inductive Instr where
  /-- INIT: start a new message (R70). -/
  | init
  /-- APPEND data: absorb the bytes carried in the command (R71). -/
  | append (data : List Byte)
  /-- FINISH: pad and emit the digest (R72). -/
  | finish
  /-- ILLEGAL(op): a reserved opcode byte, 0x00 or 0x04 to 0xFF (R55). -/
  | illegal (op : Byte)
  /-- Round 1 of COMPRESS, steps 0 to 15 (R100 to R115). -/
  | step0
  | step1
  | step2
  | step3
  | step4
  | step5
  | step6
  | step7
  | step8
  | step9
  | step10
  | step11
  | step12
  | step13
  | step14
  | step15
  /-- Round 2 of COMPRESS, steps 16 to 31 (R116 to R131). -/
  | step16
  | step17
  | step18
  | step19
  | step20
  | step21
  | step22
  | step23
  | step24
  | step25
  | step26
  | step27
  | step28
  | step29
  | step30
  | step31
  /-- Round 3 of COMPRESS, steps 32 to 47 (R132 to R147). -/
  | step32
  | step33
  | step34
  | step35
  | step36
  | step37
  | step38
  | step39
  | step40
  | step41
  | step42
  | step43
  | step44
  | step45
  | step46
  | step47
  /-- Round 4 of COMPRESS, steps 48 to 63 (R148 to R163). -/
  | step48
  | step49
  | step50
  | step51
  | step52
  | step53
  | step54
  | step55
  | step56
  | step57
  | step58
  | step59
  | step60
  | step61
  | step62
  | step63
  deriving DecidableEq, Repr

/-- The two encoding spaces: bytes of the command stream CMD (formats C0 and C1, R50) and the internal microcode address
(format S, R61). -/
inductive Code where
  /-- The bytes of a host command. -/
  | command (bytes : List Byte)
  /-- The 6-bit step index i. -/
  | micro (i : BitVec 6)
  deriving DecidableEq, Repr

/-- The answers of R54's decode on the unread bytes of CMD. -/
inductive Decoded where
  /-- No byte is left: nothing to do. -/
  | idle
  /-- An APPEND whose header or payload has not all arrived (R57). -/
  | held
  /-- A command and its encoded length in bytes. -/
  | command (i : Instr) (len : Nat)
  deriving DecidableEq, Repr

end Sys2Proof
end

