-- ==== Sys2Proof/WellFormed.lean ====
section
/-! DEFINITION. Which terms of Instr are instructions of this hardware: APPEND carries at most 2^32 - 1 bytes (spec rules R4,
R52) and an ILLEGAL byte is one that R53 leaves reserved. -/

namespace Sys2Proof

/-- A reserved opcode byte: not 0x01, 0x02 or 0x03 (R53, R55). -/
def reservedOpcode (op : Byte) : Bool := op != 0x01 && op != 0x02 && op != 0x03

/-- The checks on an instruction's operands. -/
def WellFormed : Instr → Bool
  | .init => true
  | .append data => decide (data.length < 2 ^ 32)
  | .finish => true
  | .illegal op => reservedOpcode op
  | .step0 | .step1 | .step2 | .step3 | .step4 | .step5 | .step6 | .step7
  | .step8 | .step9 | .step10 | .step11 | .step12 | .step13 | .step14 | .step15
  | .step16 | .step17 | .step18 | .step19 | .step20 | .step21 | .step22 | .step23
  | .step24 | .step25 | .step26 | .step27 | .step28 | .step29 | .step30 | .step31
  | .step32 | .step33 | .step34 | .step35 | .step36 | .step37 | .step38 | .step39
  | .step40 | .step41 | .step42 | .step43 | .step44 | .step45 | .step46 | .step47
  | .step48 | .step49 | .step50 | .step51 | .step52 | .step53 | .step54 | .step55
  | .step56 | .step57 | .step58 | .step59 | .step60 | .step61 | .step62 | .step63 => true

end Sys2Proof
end

