-- ==== Sys2Proof/Decode.lean ====
section
/-! DEFINITION. The decoder of spec/30_encoding.md rule R54, total on any byte stream, and the encoder of R50 and R53, written
from the same tables. The 6-bit step index of R61 is the other encoding space: the engine's internal microcode address. -/

namespace Sys2Proof

open Sys2Proof.Machine (wordLe le32)

/-- R54's case `op == 0x02`, on the bytes after the opcode: held while the 4 length bytes or the L data bytes have not all
arrived (R57), else APPEND of exactly L bytes, 5 + L bytes long. -/
def decodeAppend : List Byte → Decoded
  | b0 :: b1 :: b2 :: b3 :: payload =>
    if payload.length < (wordLe b0 b1 b2 b3).toNat then .held
    else .command (.append (payload.take (wordLe b0 b1 b2 b3).toNat)) (5 + (wordLe b0 b1 b2 b3).toNat)
  | _ => .held

/-- R54: decode the unread bytes of CMD. It does not depend on engine state. -/
def decode : List Byte → Decoded
  | [] => .idle
  | op :: rest =>
    if op = 0x01 then .command .init 1
    else if op = 0x03 then .command .finish 1
    else if op = 0x02 then decodeAppend rest
    else .command (.illegal op) 1

/-- The steps of rounds 1 and 2 in index order (R61). -/
def stepInstrsLow : List Instr :=
  [.step0, .step1, .step2, .step3, .step4, .step5, .step6, .step7, .step8, .step9, .step10, .step11, .step12, .step13, .step14, .step15] ++
  [.step16, .step17, .step18, .step19, .step20, .step21, .step22, .step23, .step24, .step25, .step26, .step27, .step28, .step29, .step30, .step31]

/-- The steps of rounds 3 and 4 in index order (R61). -/
def stepInstrsHigh : List Instr :=
  [.step32, .step33, .step34, .step35, .step36, .step37, .step38, .step39, .step40, .step41, .step42, .step43, .step44, .step45, .step46, .step47] ++
  [.step48, .step49, .step50, .step51, .step52, .step53, .step54, .step55, .step56, .step57, .step58, .step59, .step60, .step61, .step62, .step63]

/-- R61: the step a 6-bit index selects. Every index has one; the default is never taken. -/
def decodeStep (i : BitVec 6) : Instr := (stepInstrsLow ++ stepInstrsHigh).getD i.toNat .step0

/-- R50, R53, R61: the encoding of an instruction. -/
def encode : Instr → Code
  | .init => .command [0x01]
  | .append data => .command (0x02 :: (le32 (BitVec.ofNat 32 data.length) ++ data))
  | .finish => .command [0x03]
  | .illegal op => .command [op]
  | .step0 => .micro 0
  | .step1 => .micro 1
  | .step2 => .micro 2
  | .step3 => .micro 3
  | .step4 => .micro 4
  | .step5 => .micro 5
  | .step6 => .micro 6
  | .step7 => .micro 7
  | .step8 => .micro 8
  | .step9 => .micro 9
  | .step10 => .micro 10
  | .step11 => .micro 11
  | .step12 => .micro 12
  | .step13 => .micro 13
  | .step14 => .micro 14
  | .step15 => .micro 15
  | .step16 => .micro 16
  | .step17 => .micro 17
  | .step18 => .micro 18
  | .step19 => .micro 19
  | .step20 => .micro 20
  | .step21 => .micro 21
  | .step22 => .micro 22
  | .step23 => .micro 23
  | .step24 => .micro 24
  | .step25 => .micro 25
  | .step26 => .micro 26
  | .step27 => .micro 27
  | .step28 => .micro 28
  | .step29 => .micro 29
  | .step30 => .micro 30
  | .step31 => .micro 31
  | .step32 => .micro 32
  | .step33 => .micro 33
  | .step34 => .micro 34
  | .step35 => .micro 35
  | .step36 => .micro 36
  | .step37 => .micro 37
  | .step38 => .micro 38
  | .step39 => .micro 39
  | .step40 => .micro 40
  | .step41 => .micro 41
  | .step42 => .micro 42
  | .step43 => .micro 43
  | .step44 => .micro 44
  | .step45 => .micro 45
  | .step46 => .micro 46
  | .step47 => .micro 47
  | .step48 => .micro 48
  | .step49 => .micro 49
  | .step50 => .micro 50
  | .step51 => .micro 51
  | .step52 => .micro 52
  | .step53 => .micro 53
  | .step54 => .micro 54
  | .step55 => .micro 55
  | .step56 => .micro 56
  | .step57 => .micro 57
  | .step58 => .micro 58
  | .step59 => .micro 59
  | .step60 => .micro 60
  | .step61 => .micro 61
  | .step62 => .micro 62
  | .step63 => .micro 63

/-- Whether the host can send the instruction (R61: the host cannot issue a step). -/
def isCommand (i : Instr) : Bool :=
  match encode i with
  | .command _ => true
  | .micro _ => false

/-- The bytes the instruction takes on CMD (R51); a step takes none. -/
def commandBytes (i : Instr) : List Byte :=
  match encode i with
  | .command bytes => bytes
  | .micro _ => []

/-- The byte stream of a sequence of commands, back to back (R50: no framing, padding or alignment between them). -/
def encodeAll : List Instr → List Byte
  | [] => []
  | i :: rest => commandBytes i ++ encodeAll rest

/-- The instruction an encoding stands for: a command must fill its bytes exactly. -/
def decodeCode : Code → Option Instr
  | .command bytes =>
    match decode bytes with
    | .command i len => if len = bytes.length then some i else none
    | .idle => none
    | .held => none
  | .micro i => some (decodeStep i)

/-- Bytes 0 to n-1 of a number, least significant first. -/
def numberBytes : (n w : Nat) → List Byte
  | 0, _ => []
  | n + 1, w => BitVec.ofNat 8 w :: numberBytes n (w / 256)

/-- The bytes of the one command whose bits are the low `nbits` of `w`, every bit above being 0: an opcode byte, and for
opcode 0x02 the 4 length bytes and the L data bytes. -/
def tableBytes (nbits w : Nat) : List Byte :=
  if (w % 2 ^ nbits) % 256 = 2 then numberBytes (5 + (w % 2 ^ nbits) / 256 % 2 ^ 32) (w % 2 ^ nbits)
  else numberBytes 1 (w % 2 ^ nbits)

/-- The instruction the decoder reads from a row of spec/opcode_table.json. A row narrower than a byte is a step index
(format S, 6 bits, R61); any other is a command on CMD. A word of 8 bits or more is therefore always a command: the byte
0x05 on CMD is ILLEGAL, not STEP5 (R53's map of all 256 bytes; notes/assumptions/7.md). -/
def decodeTableWord (nbits w : Nat) : Option Instr :=
  if nbits < 8 then some (decodeStep (BitVec.ofNat 6 w))
  else
    match decode (tableBytes nbits w) with
    | .command i _ => some i
    | .idle => none
    | .held => none

end Sys2Proof
end

