-- ==== Sys2Proof/Config.lean ====
section
/-! DEFINITION. What spec/00_scope.md rule R5 leaves open, as uninterpreted constants: the three named parameters
`reset_data_state`, `post_finish_state` and `buf_tail`. Each is "any value". None has a body a proof could use, so a theorem
about the model holds whatever they are. The first argument of each is the draw number (State.draws), so that two
unspecified values taken at different commands need not agree. Logged in notes/assumptions/1.md, 2.md and 3.md. -/

namespace Sys2Proof

/-- `reset_data_state` (R5, R23, R200): accumulator number `reg` (0 = A .. 3 = D) after a hardware reset. -/
opaque Config.resetWord : (draw reg : Nat) → Word

/-- `reset_data_state` (R5, R23, R200): LEN after a hardware reset. -/
opaque Config.resetLen : (draw : Nat) → Len

/-- `post_finish_state` (R5, R72): accumulator number `reg` (0 = A .. 3 = D) after a successful FINISH. -/
opaque Config.postFinishWord : (draw reg : Nat) → Word

/-- `post_finish_state` (R5, R72): LEN after a successful FINISH. -/
opaque Config.postFinishLen : (draw : Nat) → Len

/-- `buf_tail` and the BUF part of the other two parameters (R5, R13): the byte of BUF at offset `offset` while the spec
leaves that byte unspecified. -/
opaque Config.bufTail : (draw offset : Nat) → Byte

end Sys2Proof
end

