-- ==== Sys2Proof/Machine/State.lean ====
section
/-! DEFINITION. The state of the engine (spec/10_state.md rules R10 to R25), the reasons a step can stop, the causes and
responses of spec/60_exceptions.md and spec/30_encoding.md, and the state after hardware reset (R23, R200). -/

namespace Sys2Proof.Machine

/-- PHASE, the lifecycle register (R14). The 2-bit encoding 3 is never held, so there is no fourth value (R14, U12); the codes
are Flags.lean's Phase.code. -/
inductive Phase where
  /-- 0: after hardware reset. -/
  | uninit
  /-- 1: a message is being absorbed. -/
  | ready
  /-- 2: a digest has been emitted. -/
  | finished
  deriving DecidableEq, Repr

/-- The three fault causes of R180. -/
inductive Cause where
  /-- Cause 1: a reserved opcode byte (R181). -/
  | illegalCommand
  /-- Cause 2: APPEND or FINISH while PHASE is UNINIT (R182). -/
  | notInitialized
  /-- Cause 3: APPEND or FINISH while PHASE is FINISHED (R182). -/
  | alreadyFinished
  deriving DecidableEq, Repr

/-- The responses of R56. -/
inductive Response where
  /-- Successful INIT or APPEND. -/
  | ok
  /-- Successful FINISH: the four final accumulators, in order A, B, C, D. -/
  | digest (a b c d : Word)
  /-- A fault, with its cause. -/
  | err (cause : Cause)
  deriving DecidableEq, Repr

/-- The working registers that exist only inside one COMPRESS (R18): a, b, c, d and the 6-bit step index i. -/
structure Work where
  a : Word
  b : Word
  c : Word
  d : Word
  i : BitVec 6
  deriving DecidableEq, Repr

/-- The bytes of the block buffer that the spec gives a value, as (offset, byte) pairs with strictly rising offsets below 64.
An offset that is not listed holds no specified byte (R13: "Bytes BUF[n..63] between commands are unspecified"). -/
abbrev Memory := List Host.Cell

/-- Everything the spec gives one engine. -/
structure State where
  /-- Accumulator A = H[0] (R11). -/
  A : Word
  /-- Accumulator B = H[1] (R11). -/
  B : Word
  /-- Accumulator C = H[2] (R11). -/
  C : Word
  /-- Accumulator D = H[3] (R11). -/
  D : Word
  /-- The 64-bit bit counter (R12). -/
  LEN : Len
  /-- The 64-byte block buffer (R13, R30). -/
  BUF : Memory
  /-- The lifecycle register (R14). -/
  PHASE : Phase
  /-- The command cursor, a natural number without wrap-around (R17). -/
  CP : Nat
  /-- The command stream the host has sent; the engine never writes it (R20). -/
  CMD : List Byte
  /-- The response stream, append-only (R20). -/
  RSP : List Byte
  /-- The working registers of the COMPRESS in progress, `none` between commands (R18, R23). -/
  work : Option Work
  /-- The never-cleared fault mark a model keeps beside the engine state (R192). -/
  faultMark : Bool
  /-- The model's own: how many times a value was left unspecified so far; it indexes the free values of Config. -/
  draws : Nat
  deriving DecidableEq, Repr

/-- Why the engine has no step. Both are raised by `step` alone, no instruction's meaning ends in one, and both are safe:
the engine really has no transition there. -/
inductive Fault where
  /-- The run is over: CP = |CMD|, decode answers Idle (R54, R58). Raised by step; safe. -/
  | idle
  /-- The next command is an APPEND whose bytes have not all arrived (R57). Raised by step; safe. -/
  | held
  deriving DecidableEq, Repr

/-- What has no meaning. -/
inductive Refusal where
  /-- An instruction without a meaning yet. Raised by exec's refused arms (there are none); safe. -/
  | notModelled (mnemonic : String)
  /-- A STEP executed while no COMPRESS is in progress: the registers it reads and writes do not exist then (R18), and no host
  can issue it (R61). Raised by the 64 STEP meanings when State.work is none, which no step of the engine does; safe. -/
  | stepOutsideCompress
  deriving DecidableEq, Repr

/-- What an operation answers. -/
abbrev Result := Host.Outcome State Fault Refusal

/-- The state right after hardware reset (R23, R200): PHASE = UNINIT, CP = 0, both streams empty, no working registers; A, B,
C, D, LEN and BUF hold the free values of `reset_data_state` (R5, R201: no value is chosen for them). -/
def State.reset : State where
  A := Config.resetWord 0 0
  B := Config.resetWord 0 1
  C := Config.resetWord 0 2
  D := Config.resetWord 0 3
  LEN := Config.resetLen 0
  BUF := []
  PHASE := .uninit
  CP := 0
  CMD := []
  RSP := []
  work := none
  faultMark := false
  draws := 1

end Sys2Proof.Machine
end

