-- ==== Sys2Proof/Machine/Ops.lean ====
section
/-! DEFINITION. The named operations over BUF and the registers, the one operation that takes a fault (R183), the response
stream, the fetch of the unread command bytes, and what the host can do to the engine. There is no return from a fault: it
transfers control nowhere, so nothing returns from it (R79, R186). -/

namespace Sys2Proof.Machine

/-- Go on with the next state; a fault or a refusal stays. -/
def andThen (r : Result) (f : State → Result) : Result :=
  match r with
  | .next s => f s
  | .fault e => .fault e
  | .refused e => .refused e

/-! ## BUF -/

/-- The specified byte at an offset, if there is one. An unlisted offset holds no specified byte (R13). -/
def Memory.read : Memory → Nat → Option Byte
  | [], _ => none
  | (b, v) :: m, a => if b = a then some v else Memory.read m a

/-- Store a byte, keeping the offsets strictly rising. -/
def Memory.write (a : Nat) (v : Byte) : Memory → Memory
  | [] => [(a, v)]
  | (b, w) :: m =>
    if a < b then (a, v) :: (b, w) :: m
    else if a = b then (a, v) :: m
    else (b, w) :: Memory.write a v m

/-- The canonical form: offsets strictly rising and inside BUF's 64 bytes (R30). An unlisted offset reads as `none`, which no
entry can equal. -/
abbrev Memory.wf (m : Memory) : Prop := m.Pairwise (fun c d => c.1 < d.1) ∧ ∀ c ∈ m, c.1 < 64

/-- BUF[a]: the specified byte, or the free value `buf_tail` where the spec leaves the byte unspecified (R5, R13). -/
def State.byteAt (s : State) (a : Nat) : Byte := (s.BUF.read a).getD (Config.bufTail s.draws a)

/-- The 64 bytes a COMPRESS reads. -/
def State.block (s : State) : List Byte := (List.range 64).map s.byteAt

/-! ## Register writes, one operation per register or group -/

/-- Write A, B, C and D. -/
def State.setChain (a b c d : Word) (s : State) : State := { s with A := a, B := b, C := c, D := d }

/-- Write LEN. -/
def State.setLen (v : Len) (s : State) : State := { s with LEN := v }

/-- Write BUF. -/
def State.setBuf (m : Memory) (s : State) : State := { s with BUF := m }

/-- Write PHASE. -/
def State.setPhase (p : Phase) (s : State) : State := { s with PHASE := p }

/-- Write the working registers. -/
def State.setWork (w : Option Work) (s : State) : State := { s with work := w }

/-- `CP <- CP + n` (R17). -/
def State.advance (n : Nat) (s : State) : State := { s with CP := s.CP + n }

/-- Set the fault mark (R192). -/
def State.markFault (s : State) : State := { s with faultMark := true }

/-- Some values have become unspecified: the free values read from here on are new ones. -/
def State.draw (s : State) : State := { s with draws := s.draws + 1 }

/-- `MemWrite(a, 1, v)` (R7, R78). -/
def State.writeByte (a : Nat) (v : Byte) (s : State) : State := s.setBuf (s.BUF.write a v)

/-- Byte stores at consecutive offsets from a; `MemWrite(56, 8, v)` is this with le64(v) (R7, R37). -/
def State.writeBytes (a : Nat) : List Byte → State → State
  | [], s => s
  | v :: rest, s => State.writeBytes (a + 1) rest (s.writeByte a v)

/-- All of BUF becomes unspecified: INIT (R70) and FINISH (R72) leave it so. -/
def State.forgetBuf (s : State) : State := (s.setBuf []).draw

/-- BUF[0..n-1] keeps its bytes and BUF[n..63] becomes unspecified (R13: "Bytes BUF[n..63] between commands are
unspecified"). -/
def State.forgetBufFrom (n : Nat) (s : State) : State := (s.setBuf ((List.range n).map (fun j => (j, s.byteAt j)))).draw

/-- A, B, C, D, LEN and BUF become unspecified: `post_finish_state` (R5, R72). -/
def State.forgetAll (s : State) : State :=
  ((s.setChain (Config.postFinishWord s.draws 0) (Config.postFinishWord s.draws 1) (Config.postFinishWord s.draws 2)
    (Config.postFinishWord s.draws 3)).setLen (Config.postFinishLen s.draws)).forgetBuf

/-! ## Responses and faults -/

/-- The cause codes of R180. -/
def Cause.code : Cause → Byte
  | .illegalCommand => 1
  | .notInitialized => 2
  | .alreadyFinished => 3

/-- The bytes of a response (R56): an ERR byte is `0xE0 | cause`. -/
def Response.bytes : Response → List Byte
  | .ok => [0x00]
  | .digest a b c d => 0x01 :: digestBytes a b c d
  | .err cause => [0xE0 ||| cause.code]

/-- `respond R`: append the response to RSP (R7, R56). -/
def State.respond (r : Response) (s : State) : State := { s with RSP := s.RSP ++ r.bytes }

/-- Fault entry (R183), the one operation every fault goes through: in a command of encoded length m, every register is left
as it was, ERR(cause) is appended to RSP and CP moves past the whole command. The fault mark of R192 is set. -/
def State.raise (cause : Cause) (m : Nat) (s : State) : State := ((s.respond (.err cause)).advance m).markFault

/-- The head of APPEND and FINISH (R182): test PHASE before reading any other register; raise in a command of length m unless
it is READY. -/
def whenReady (m : Nat) (s : State) (body : Result) : Result :=
  match s.PHASE with
  | .uninit => .next (s.raise .notInitialized m)
  | .finished => .next (s.raise .alreadyFinished m)
  | .ready => body

/-! ## Fetch and the host -/

/-- The bytes of CMD the engine has not consumed. -/
def State.unread (s : State) : List Byte := s.CMD.drop s.CP

/-- The host sends more bytes (R20, R57: a held engine is lifted only by this, or by reset). -/
def State.hostSend (bytes : List Byte) (s : State) : State := { s with CMD := s.CMD ++ bytes }

/-- The reset event (R200), in any phase: a command in progress is abandoned without a response, the data registers and BUF
become unspecified, and the interface starts afresh. RSP is empty again, so the fault mark, which R192 derives from RSP, is
clear. -/
def State.hardwareReset (s : State) : State where
  A := Config.resetWord s.draws 0
  B := Config.resetWord s.draws 1
  C := Config.resetWord s.draws 2
  D := Config.resetWord s.draws 3
  LEN := Config.resetLen s.draws
  BUF := []
  PHASE := .uninit
  CP := 0
  CMD := []
  RSP := []
  work := none
  faultMark := false
  draws := s.draws + 1

end Sys2Proof.Machine
end

