-- ==== Sys2Proof/Machine/Flags.lean ====
section
/-! DEFINITION. The engine has no status flags, condition codes or predicates (spec/10_state.md rule R24): no command computes
one. What its two status registers hold is read here: the fields of LEN (R12) and the 2-bit code of PHASE (R14). -/

namespace Sys2Proof.Machine

/-- The encoding of PHASE (R14). -/
def Phase.code : Phase → BitVec 2
  | .uninit => 0
  | .ready => 1
  | .finished => 2

/-- `LEN.blocks = LEN[63:9]`: whole 64-byte blocks absorbed, mod 2^55 (R12). -/
def State.lenBlocks (s : State) : BitVec 55 := s.LEN.extractLsb' 9 55

/-- `LEN.n = LEN[8:3]`: the pending count n, the number of valid bytes in BUF, 0 to 63 (R12). -/
def State.pending (s : State) : Nat := (s.LEN.extractLsb' 3 6).toNat

/-- `LEN.bits = LEN[2:0]`, always 0 while PHASE is READY (R12). -/
def State.lenBits (s : State) : BitVec 3 := s.LEN.extractLsb' 0 3

/-- BUF[0..n-1], the pending bytes in arrival order (R13). -/
def State.pendingBytes (s : State) : List Byte := (List.range s.pending).map s.byteAt

end Sys2Proof.Machine
end

