-- ==== Sys2Proof/Machine/Operands.lean ====
section
/-! DEFINITION. The operands of the instructions: APPEND's inline data and its length in bits (spec/30_encoding.md rule R52),
FINISH's padding (R72, R74), and a step's message word (spec/20_memory.md rule R33). There is no other addressing mode
(R78). -/

namespace Sys2Proof.Machine

/-- `zext_64(L) << 3`: a length of L bytes in bits (R52, R76). -/
def bitLength (L : Nat) : Len := BitVec.ofNat 64 L <<< 3

/-- `X[k] = MemRead(4k, 4)`, the little-endian message word k of the block in BUF (R33). -/
def State.msgWord (s : State) (k : Nat) : Word :=
  wordLe (s.byteAt (4 * k)) (s.byteAt (4 * k + 1)) (s.byteAt (4 * k + 2)) (s.byteAt (4 * k + 3))

/-- `padlen(n)`: the padding bytes before the length suffix, marker included, at pending count n (R74). -/
def padlen (n : Nat) : Nat := if n ≤ 55 then 56 - n else 120 - n

end Sys2Proof.Machine
end

