-- ==== Sys2Proof/Machine/Round.lean ====
section
/-! DEFINITION. The four nonlinear functions (spec/41_compression.md rules R90 to R93), the rotation (R7, R99), and the one
shared operation of the 64 steps (R97). -/

namespace Sys2Proof.Machine

/-- `F(x, y, z) = (x & y) | (~x & z)`, steps 0 to 15 (R90). -/
def roundF (x y z : Word) : Word := (x &&& y) ||| (~~~x &&& z)

/-- `G(x, y, z) = (x & z) | (y & ~z)`, steps 16 to 31 (R91). -/
def roundG (x y z : Word) : Word := (x &&& z) ||| (y &&& ~~~z)

/-- `H(x, y, z) = x ^ y ^ z`, steps 32 to 47 (R92). -/
def roundH (x y z : Word) : Word := x ^^^ y ^^^ z

/-- `I(x, y, z) = y ^ (x | ~z)`, steps 48 to 63 (R93). -/
def roundI (x y z : Word) : Word := y ^^^ (x ||| ~~~z)

/-- `rotl32(x, s)` for 1 <= s <= 31 (R7): bits shifted out at the top re-enter at the bottom. -/
def rotl32 (x : Word) (s : Nat) : Word := (x <<< s) ||| (x >>> (32 - s))

/-- One step on the working registers (R97) with function f, message word x, constant T and rotation r: all right-hand sides
use the values before the step. The step index is the loop's, not the step's, to move (R98). -/
def Work.mix (f : Word → Word → Word → Word) (x : Word) (r : Nat) (T : Word) (w : Work) : Work :=
  { w with a := w.d, b := w.b + rotl32 (w.a + f w.b w.c w.d + x + T) r, c := w.b, d := w.c }

/-- R97 as an operation on the state: it reads and writes the working registers, reads message word X[k] and touches no
architectural register. -/
def stepOp (f : Word → Word → Word → Word) (k r : Nat) (T : Word) (s : State) : Result :=
  match s.work with
  | some w => .next (s.setWork (some (w.mix f (s.msgWord k) r T)))
  | none => .refused .stepOutsideCompress

end Sys2Proof.Machine
end

