-- ==== Sys2Proof/Machine/Steps.lean ====
section
/-! DEFINITION. The meanings of STEP0 to STEP63, one per rule R100 to R163 of spec/41_compression.md: round function, message
word, rotation and additive constant as the rule of that step writes them out. -/

namespace Sys2Proof.Machine

/-- STEP 0 (R100). -/
def execStep0 (s : State) : Result := stepOp roundF 0 7 0xd76aa478 s
/-- STEP 1 (R101). -/
def execStep1 (s : State) : Result := stepOp roundF 1 12 0xe8c7b756 s
/-- STEP 2 (R102). -/
def execStep2 (s : State) : Result := stepOp roundF 2 17 0x242070db s
/-- STEP 3 (R103). -/
def execStep3 (s : State) : Result := stepOp roundF 3 22 0xc1bdceee s
/-- STEP 4 (R104). -/
def execStep4 (s : State) : Result := stepOp roundF 4 7 0xf57c0faf s
/-- STEP 5 (R105). -/
def execStep5 (s : State) : Result := stepOp roundF 5 12 0x4787c62a s
/-- STEP 6 (R106). -/
def execStep6 (s : State) : Result := stepOp roundF 6 17 0xa8304613 s
/-- STEP 7 (R107). -/
def execStep7 (s : State) : Result := stepOp roundF 7 22 0xfd469501 s
/-- STEP 8 (R108). -/
def execStep8 (s : State) : Result := stepOp roundF 8 7 0x698098d8 s
/-- STEP 9 (R109). -/
def execStep9 (s : State) : Result := stepOp roundF 9 12 0x8b44f7af s
/-- STEP 10 (R110). -/
def execStep10 (s : State) : Result := stepOp roundF 10 17 0xffff5bb1 s
/-- STEP 11 (R111). -/
def execStep11 (s : State) : Result := stepOp roundF 11 22 0x895cd7be s
/-- STEP 12 (R112). -/
def execStep12 (s : State) : Result := stepOp roundF 12 7 0x6b901122 s
/-- STEP 13 (R113). -/
def execStep13 (s : State) : Result := stepOp roundF 13 12 0xfd987193 s
/-- STEP 14 (R114). -/
def execStep14 (s : State) : Result := stepOp roundF 14 17 0xa679438e s
/-- STEP 15 (R115). -/
def execStep15 (s : State) : Result := stepOp roundF 15 22 0x49b40821 s
/-- STEP 16 (R116). -/
def execStep16 (s : State) : Result := stepOp roundG 1 5 0xf61e2562 s
/-- STEP 17 (R117). -/
def execStep17 (s : State) : Result := stepOp roundG 6 9 0xc040b340 s
/-- STEP 18 (R118). -/
def execStep18 (s : State) : Result := stepOp roundG 11 14 0x265e5a51 s
/-- STEP 19 (R119). -/
def execStep19 (s : State) : Result := stepOp roundG 0 20 0xe9b6c7aa s
/-- STEP 20 (R120). -/
def execStep20 (s : State) : Result := stepOp roundG 5 5 0xd62f105d s
/-- STEP 21 (R121). -/
def execStep21 (s : State) : Result := stepOp roundG 10 9 0x02441453 s
/-- STEP 22 (R122). -/
def execStep22 (s : State) : Result := stepOp roundG 15 14 0xd8a1e681 s
/-- STEP 23 (R123). -/
def execStep23 (s : State) : Result := stepOp roundG 4 20 0xe7d3fbc8 s
/-- STEP 24 (R124). -/
def execStep24 (s : State) : Result := stepOp roundG 9 5 0x21e1cde6 s
/-- STEP 25 (R125). -/
def execStep25 (s : State) : Result := stepOp roundG 14 9 0xc33707d6 s
/-- STEP 26 (R126). -/
def execStep26 (s : State) : Result := stepOp roundG 3 14 0xf4d50d87 s
/-- STEP 27 (R127). -/
def execStep27 (s : State) : Result := stepOp roundG 8 20 0x455a14ed s
/-- STEP 28 (R128). -/
def execStep28 (s : State) : Result := stepOp roundG 13 5 0xa9e3e905 s
/-- STEP 29 (R129). -/
def execStep29 (s : State) : Result := stepOp roundG 2 9 0xfcefa3f8 s
/-- STEP 30 (R130). -/
def execStep30 (s : State) : Result := stepOp roundG 7 14 0x676f02d9 s
/-- STEP 31 (R131). -/
def execStep31 (s : State) : Result := stepOp roundG 12 20 0x8d2a4c8a s
/-- STEP 32 (R132). -/
def execStep32 (s : State) : Result := stepOp roundH 5 4 0xfffa3942 s
/-- STEP 33 (R133). -/
def execStep33 (s : State) : Result := stepOp roundH 8 11 0x8771f681 s
/-- STEP 34 (R134). -/
def execStep34 (s : State) : Result := stepOp roundH 11 16 0x6d9d6122 s
/-- STEP 35 (R135). -/
def execStep35 (s : State) : Result := stepOp roundH 14 23 0xfde5380c s
/-- STEP 36 (R136). -/
def execStep36 (s : State) : Result := stepOp roundH 1 4 0xa4beea44 s
/-- STEP 37 (R137). -/
def execStep37 (s : State) : Result := stepOp roundH 4 11 0x4bdecfa9 s
/-- STEP 38 (R138). -/
def execStep38 (s : State) : Result := stepOp roundH 7 16 0xf6bb4b60 s
/-- STEP 39 (R139). -/
def execStep39 (s : State) : Result := stepOp roundH 10 23 0xbebfbc70 s
/-- STEP 40 (R140). -/
def execStep40 (s : State) : Result := stepOp roundH 13 4 0x289b7ec6 s
/-- STEP 41 (R141). -/
def execStep41 (s : State) : Result := stepOp roundH 0 11 0xeaa127fa s
/-- STEP 42 (R142). -/
def execStep42 (s : State) : Result := stepOp roundH 3 16 0xd4ef3085 s
/-- STEP 43 (R143). -/
def execStep43 (s : State) : Result := stepOp roundH 6 23 0x04881d05 s
/-- STEP 44 (R144). -/
def execStep44 (s : State) : Result := stepOp roundH 9 4 0xd9d4d039 s
/-- STEP 45 (R145). -/
def execStep45 (s : State) : Result := stepOp roundH 12 11 0xe6db99e5 s
/-- STEP 46 (R146). -/
def execStep46 (s : State) : Result := stepOp roundH 15 16 0x1fa27cf8 s
/-- STEP 47 (R147). -/
def execStep47 (s : State) : Result := stepOp roundH 2 23 0xc4ac5665 s
/-- STEP 48 (R148). -/
def execStep48 (s : State) : Result := stepOp roundI 0 6 0xf4292244 s
/-- STEP 49 (R149). -/
def execStep49 (s : State) : Result := stepOp roundI 7 10 0x432aff97 s
/-- STEP 50 (R150). -/
def execStep50 (s : State) : Result := stepOp roundI 14 15 0xab9423a7 s
/-- STEP 51 (R151). -/
def execStep51 (s : State) : Result := stepOp roundI 5 21 0xfc93a039 s
/-- STEP 52 (R152). -/
def execStep52 (s : State) : Result := stepOp roundI 12 6 0x655b59c3 s
/-- STEP 53 (R153). -/
def execStep53 (s : State) : Result := stepOp roundI 3 10 0x8f0ccc92 s
/-- STEP 54 (R154). -/
def execStep54 (s : State) : Result := stepOp roundI 10 15 0xffeff47d s
/-- STEP 55 (R155). -/
def execStep55 (s : State) : Result := stepOp roundI 1 21 0x85845dd1 s
/-- STEP 56 (R156). -/
def execStep56 (s : State) : Result := stepOp roundI 8 6 0x6fa87e4f s
/-- STEP 57 (R157). -/
def execStep57 (s : State) : Result := stepOp roundI 15 10 0xfe2ce6e0 s
/-- STEP 58 (R158). -/
def execStep58 (s : State) : Result := stepOp roundI 6 15 0xa3014314 s
/-- STEP 59 (R159). -/
def execStep59 (s : State) : Result := stepOp roundI 13 21 0x4e0811a1 s
/-- STEP 60 (R160). -/
def execStep60 (s : State) : Result := stepOp roundI 4 6 0xf7537e82 s
/-- STEP 61 (R161). -/
def execStep61 (s : State) : Result := stepOp roundI 11 10 0xbd3af235 s
/-- STEP 62 (R162). -/
def execStep62 (s : State) : Result := stepOp roundI 2 15 0x2ad7d2bb s
/-- STEP 63 (R163). -/
def execStep63 (s : State) : Result := stepOp roundI 9 21 0xeb86d391 s

end Sys2Proof.Machine
end

