-- ==== Sys2Proof/Machine/Compress.lean ====
section
/-! DEFINITION. COMPRESS (spec/41_compression.md rule R98): copy A to D into the working registers, run STEP 0 to STEP 63 in
increasing order, add the working registers back. It is the micro-operation APPEND and FINISH run once per 64-byte block. -/

namespace Sys2Proof.Machine

/-- The meanings of steps 0 to 31 in order. -/
def stepMeaningsLow : List (State → Result) :=
  [execStep0, execStep1, execStep2, execStep3, execStep4, execStep5, execStep6, execStep7, execStep8, execStep9, execStep10, execStep11, execStep12, execStep13, execStep14, execStep15] ++
  [execStep16, execStep17, execStep18, execStep19, execStep20, execStep21, execStep22, execStep23, execStep24, execStep25, execStep26, execStep27, execStep28, execStep29, execStep30, execStep31]

/-- The meanings of steps 32 to 63 in order. -/
def stepMeaningsHigh : List (State → Result) :=
  [execStep32, execStep33, execStep34, execStep35, execStep36, execStep37, execStep38, execStep39, execStep40, execStep41, execStep42, execStep43, execStep44, execStep45, execStep46, execStep47] ++
  [execStep48, execStep49, execStep50, execStep51, execStep52, execStep53, execStep54, execStep55, execStep56, execStep57, execStep58, execStep59, execStep60, execStep61, execStep62, execStep63]

/-- The meaning the 6-bit step index selects (R61). Every index has one; the default is never taken. -/
def stepMeaning (i : BitVec 6) : State → Result := (stepMeaningsLow ++ stepMeaningsHigh).getD i.toNat execStep0

/-- The copy-in of R98: (a, b, c, d) <- (A, B, C, D), with the step index at i. -/
def State.beginCompress (i : BitVec 6) (s : State) : State := s.setWork (some ⟨s.A, s.B, s.C, s.D, i⟩)

/-- What R98's loop does after a step: go to the next index, or after STEP 63 add the working registers back and end. -/
def afterStep (s : State) : State :=
  match s.work with
  | some w =>
    if w.i = 63 then (s.setChain (s.A + w.a) (s.B + w.b) (s.C + w.c) (s.D + w.d)).setWork none
    else s.setWork (some { w with i := w.i + 1 })
  | none => s

/-- One turn of R98's loop: the step the index selects, then the loop's own move. -/
def compressTurn (s : State) : Result :=
  match s.work with
  | some w => andThen (stepMeaning w.i s) (fun t => .next (afterStep t))
  | none => .refused .stepOutsideCompress

/-- n turns of the loop. -/
def compressTurns : Nat → State → Result
  | 0, s => .next s
  | n + 1, s => andThen (compressTurn s) (compressTurns n)

/-- COMPRESS of the block in BUF (R98): always exactly 64 steps. -/
def compress (s : State) : Result := compressTurns 64 (s.beginCompress 0)

end Sys2Proof.Machine
end

