-- ==== Sys2Proof/Machine/Commands.lean ====
section
/-! DEFINITION. The meanings of the host commands INIT, APPEND, FINISH (spec/40_commands.md rules R70, R71, R72) and of a
reserved opcode byte (R55, R181). Each is one whole command, executed atomically (R6). -/

namespace Sys2Proof.Machine

/-- INIT (R70): valid in every phase, reads nothing. BUF is not written and is unspecified afterwards. -/
def execInit (s : State) : Result :=
  .next (((((s.setChain initA initB initC initD).setLen 0).setPhase .ready).forgetBuf.respond .ok).advance 1)

/-- The byte loop of R71 at pending count n: store each byte, and when the buffer is full run COMPRESS and start again at
offset 0. -/
def absorb : List Byte → Nat → State → Result
  | [], _, s => .next s
  | v :: rest, n, s =>
    if n + 1 = 64 then andThen (compress (s.writeByte n v)) (absorb rest 0)
    else absorb rest (n + 1) (s.writeByte n v)

/-- The end of R71: LEN grows by 8L, the bytes of BUF beyond the new pending count are unspecified (R13), the answer is OK. -/
def appendEnd (L : Nat) (s : State) : State :=
  (((s.setLen (s.LEN + bitLength L)).forgetBufFrom (s.setLen (s.LEN + bitLength L)).pending).respond .ok).advance (5 + L)

/-- APPEND data (R71). -/
def execAppend (data : List Byte) (s : State) : Result :=
  whenReady (5 + data.length) s
    (andThen (absorb data s.pending s) (fun t => .next (appendEnd data.length t)))

/-- Steps 1 to 4 of R72 at pending count n with length L0: the marker byte, zero bytes, the length in BUF[56..63], one or two
COMPRESS. -/
def finishBlocks (n : Nat) (L0 : Len) (s : State) : Result :=
  if n ≤ 55 then
    compress (((s.writeBytes n [0x80]).writeBytes (n + 1) (List.replicate (55 - n) 0x00)).writeBytes 56 (le64 L0))
  else
    andThen (compress ((s.writeBytes n [0x80]).writeBytes (n + 1) (List.replicate (63 - n) 0x00)))
      (fun t => compress ((t.writeBytes 0 (List.replicate 56 0x00)).writeBytes 56 (le64 L0)))

/-- The end of R72: the digest is the four accumulators, PHASE is FINISHED, every data register is unspecified. -/
def finishEnd (s : State) : State := (((s.setPhase .finished).forgetAll).respond (.digest s.A s.B s.C s.D)).advance 1

/-- FINISH (R72). -/
def execFinish (s : State) : Result :=
  whenReady 1 s (andThen (finishBlocks s.pending s.LEN s) (fun t => .next (finishEnd t)))

/-- ILLEGAL(op) (R55, R181): the byte is consumed as a 1-byte command that raises IllegalCommand. The byte itself is recorded
nowhere (R180). -/
def execIllegal (_op : Byte) (s : State) : Result := .next (s.raise .illegalCommand 1)

end Sys2Proof.Machine
end

