-- ==== Sys2Proof/Machine/Step.lean ====
section
/-! DEFINITION. One step of the engine (spec/30_encoding.md rule R54): decode the unread bytes of CMD; if a command was returned,
execute it whole. A state inside a COMPRESS, which no command leaves behind, takes one turn of R98's loop instead: the step
the index i selects, the engine's "microcode address" (R61). -/

namespace Sys2Proof.Machine

/-- One step: one whole command (R6, R54), or one STEP of a COMPRESS that is in progress (R61, R98). Idle and Held have no
transition (R57, R58). -/
def step (s : State) : Host.Outcome State Fault Refusal :=
  match s.work with
  | some w => andThen (exec (decodeStep w.i) s) (fun t => .next (afterStep t))
  | none =>
    match decode s.unread with
    | .idle => .fault .idle
    | .held => .fault .held
    | .command i _ => exec i s

/-- The state whose very next step runs the given opcode-table word. A command's bytes become the unread bytes of CMD, between
commands; a step index (a row narrower than a byte) becomes the microcode address of a COMPRESS that has just copied A to D
in. -/
def State.withFetchWord (s : State) (nbits w : Nat) : State :=
  if nbits < 8 then s.beginCompress (BitVec.ofNat 6 w)
  else { s with
    CMD := s.CMD.take s.CP ++ tableBytes nbits w
    CP := (s.CMD.take s.CP).length
    work := none }

end Sys2Proof.Machine
end

