-- ==== Sys2Proof/Machine/Assembler.lean ====
section
/-! DEFINITION. The text form of spec/30_encoding.md rules R59 and R60: what each line encodes as, and how a text is read, one
command per line, `;` starting a comment. -/

namespace Sys2Proof.Machine

/-- The literal operand of an APPEND line (R59). -/
inductive AsmOperand where
  /-- `"text"`: the characters in ASCII, no terminator. -/
  | text (chars : List Char)
  /-- `x"hh hh ..."`: the bytes as given. -/
  | hex (bytes : List Byte)
  /-- `x"hh"*k`: k copies of a byte. -/
  | fill (value : Byte) (count : Nat)
  deriving DecidableEq, Repr

/-- One line of the text form, the pseudo-instruction DIGEST among them. -/
inductive AsmLine where
  /-- `INIT`. -/
  | init
  /-- `APPEND operand`. -/
  | append (operand : AsmOperand)
  /-- `FINISH`. -/
  | finish
  /-- `.byte hh`: the raw byte. -/
  | byte (value : Byte)
  /-- `DIGEST operand`: INIT, APPEND operand, FINISH (R60). -/
  | digest (operand : AsmOperand)
  deriving DecidableEq, Repr

/-- The bytes an operand stands for. -/
def AsmOperand.bytes : AsmOperand → List Byte
  | .text chars => chars.map (fun c => BitVec.ofNat 8 c.toNat)
  | .hex bytes => bytes
  | .fill value count => List.replicate count value

/-- The bytes a line encodes as (R59, R60). -/
def AsmLine.encode : AsmLine → List Byte
  | .init => [0x01]
  | .append operand => 0x02 :: (le32 (BitVec.ofNat 32 operand.bytes.length) ++ operand.bytes)
  | .finish => [0x03]
  | .byte value => [value]
  | .digest operand =>
    [0x01] ++ (0x02 :: (le32 (BitVec.ofNat 32 operand.bytes.length) ++ operand.bytes)) ++ [0x03]

/-- The command stream of a program in text form. -/
def assemble : List AsmLine → List Byte
  | [] => []
  | line :: rest => line.encode ++ assemble rest

/-! ## Reading a text -/

/-- The double quote. -/
def quoteChar : Char := Char.ofNat 34

/-- The backslash, which escapes a quote or itself inside `"text"` (R59). -/
def escapeChar : Char := Char.ofNat 92

/-- A blank: space, tab or carriage return (notes/assumptions/16.md). -/
def isBlank (c : Char) : Bool := c = ' ' || c.toNat = 9 || c.toNat = 13

/-- Drop leading blanks. -/
def skipBlanks : List Char → List Char
  | [] => []
  | c :: rest => if isBlank c then skipBlanks rest else c :: rest

/-- Nothing but blanks and a comment is left. -/
def lineEnds (cs : List Char) : Bool :=
  match skipBlanks cs with
  | [] => true
  | c :: _ => c = ';'

/-- A mnemonic: the characters up to a blank or a comment, and the rest. -/
def readWord : List Char → List Char × List Char
  | [] => ([], [])
  | c :: rest => if isBlank c || c = ';' then ([], c :: rest) else (c :: (readWord rest).1, (readWord rest).2)

/-- The value of a hexadecimal digit. -/
def hexDigit (c : Char) : Option Nat :=
  if 48 ≤ c.toNat && c.toNat ≤ 57 then some (c.toNat - 48)
  else if 97 ≤ c.toNat && c.toNat ≤ 102 then some (c.toNat - 87)
  else if 65 ≤ c.toNat && c.toNat ≤ 70 then some (c.toNat - 55)
  else none

/-- Two digits as a byte. -/
def hexByte (c d : Char) : Option Byte :=
  match hexDigit c, hexDigit d with
  | some x, some y => some (BitVec.ofNat 8 (16 * x + y))
  | some _, none => none
  | none, _ => none

/-- `"text"` after its opening quote: ASCII characters, a quote or a backslash escaped, up to the closing quote (R59). -/
def readText : List Char → Option (List Char × List Char)
  | [] => none
  | [c] => if c = quoteChar then some ([], []) else none
  | c :: d :: rest =>
    if c = quoteChar then some ([], d :: rest)
    else if c = escapeChar then
      if d = quoteChar || d = escapeChar then (readText rest).map (fun r => (d :: r.1, r.2)) else none
    else if c.toNat < 128 then (readText (d :: rest)).map (fun r => (c :: r.1, r.2))
    else none

/-- The same characters as they are written between the quotes (R59). -/
def escapeText : List Char → List Char
  | [] => []
  | c :: rest => if c = quoteChar || c = escapeChar then escapeChar :: c :: escapeText rest else c :: escapeText rest

/-- `x"hh hh ..."` after its opening quote: two-digit numbers with blanks between them (R59). -/
def readHex : List Char → Option (List Byte × List Char)
  | [] => none
  | [c] => if c = quoteChar then some ([], []) else none
  | c :: d :: rest =>
    if c = quoteChar then some ([], d :: rest)
    else if isBlank c then readHex (d :: rest)
    else
      match hexByte c d, rest with
      | some v, e :: more =>
        if e = quoteChar || isBlank e then (readHex (e :: more)).map (fun r => (v :: r.1, r.2)) else none
      | some _, [] => none
      | none, _ => none

/-- The decimal digits of `k` in `x"hh"*k`, after `acc` has been read: the number, whether there was a digit, the rest. -/
def readCount : List Char → (acc : Nat) → (any : Bool) → Nat × Bool × List Char
  | [], acc, any => (acc, any, [])
  | c :: rest, acc, any =>
    if 48 ≤ c.toNat && c.toNat ≤ 57 then readCount rest (10 * acc + (c.toNat - 48)) true else (acc, any, c :: rest)

/-- What follows a hexadecimal literal: `*k` makes it a fill of its one byte, else it stands as given (R59). -/
def readFill (bytes : List Byte) (cs : List Char) : Option (AsmOperand × List Char) :=
  match cs with
  | [] => some (.hex bytes, [])
  | c :: rest =>
    if c = '*' then
      match bytes, readCount rest 0 false with
      | [v], (count, true, tail) => some (.fill v count, tail)
      | _, _ => none
    else some (.hex bytes, c :: rest)

/-- The length of an operand without writing its bytes out. -/
def AsmOperand.length : AsmOperand → Nat
  | .text chars => chars.length
  | .hex bytes => bytes.length
  | .fill _ count => count

/-- The operand of APPEND or DIGEST, the whole rest of its line; a literal longer than an APPEND can carry has no encoding
(R50, R52). -/
def readOperand (cs : List Char) : Option AsmOperand :=
  let parsed : Option (AsmOperand × List Char) :=
    match skipBlanks cs with
    | c :: d :: rest =>
      if c = quoteChar then (readText (d :: rest)).map (fun r => (.text r.1, r.2))
      else if c = 'x' && d = quoteChar then (readHex rest).bind (fun r => readFill r.1 r.2)
      else none
    | [_] => none
    | [] => none
  match parsed with
  | some (o, tail) => if lineEnds tail && decide (o.length < 2 ^ 32) then some o else none
  | none => none

/-- The operand of `.byte`. -/
def readByte (cs : List Char) : Option Byte :=
  match skipBlanks cs with
  | c :: d :: rest => if lineEnds rest then hexByte c d else none
  | [_] => none
  | [] => none

/-- One line of the text form: nothing for a blank line or a comment, else one command or pseudo-instruction; `none` where the
line is none of R59's or R60's. -/
def readLine (cs : List Char) : Option (List AsmLine) :=
  if lineEnds cs then some []
  else
    let word := (readWord (skipBlanks cs)).1
    let rest := (readWord (skipBlanks cs)).2
    if word = ['I', 'N', 'I', 'T'] then (if lineEnds rest then some [.init] else none)
    else if word = ['F', 'I', 'N', 'I', 'S', 'H'] then (if lineEnds rest then some [.finish] else none)
    else if word = ['A', 'P', 'P', 'E', 'N', 'D'] then (readOperand rest).map (fun o => [.append o])
    else if word = ['D', 'I', 'G', 'E', 'S', 'T'] then (readOperand rest).map (fun o => [.digest o])
    else if word = ['.', 'b', 'y', 't', 'e'] then (readByte rest).map (fun v => [.byte v])
    else none

/-- Cut a text at its line feeds. -/
def splitLines : List Char → List (List Char)
  | [] => [[]]
  | c :: rest =>
    if c.toNat = 10 then [] :: splitLines rest
    else
      match splitLines rest with
      | line :: lines => (c :: line) :: lines
      | [] => [[c]]

/-- Read lines in order; `none` if one of them is no line of the text form. -/
def readLines : List (List Char) → Option (List AsmLine)
  | [] => some []
  | line :: lines =>
    match readLine line, readLines lines with
    | some l, some ls => some (l ++ ls)
    | some _, none => none
    | none, _ => none

/-- The command stream a text stands for. -/
def assembleText (text : List Char) : Option (List Byte) := (readLines (splitLines text)).map assemble

end Sys2Proof.Machine
end

