-- ==== Sys2Proof/Machine/System.lean ====
section
/-! DEFINITION. Several engines (spec/60_exceptions.md rule R189, spec/10_state.md rule R25): the state of a system of k
engines is the product of k engine states, and each engine steps only on its own CMD and RSP. How many there are is outside
the spec. -/

namespace Sys2Proof.Machine

/-- Engine j takes one step; `none` when there is no engine j or it has no step. -/
def stepEngine (j : Nat) (sys : List State) : Option (List State) :=
  match sys[j]? with
  | none => none
  | some s =>
    match step s with
    | .next t => some (sys.set j t)
    | .fault _ => none
    | .refused _ => none

/-- A schedule: the engines step in the given order. -/
def runSchedule : List Nat → List State → Option (List State)
  | [], sys => some sys
  | j :: rest, sys =>
    match stepEngine j sys with
    | some sys' => runSchedule rest sys'
    | none => none

end Sys2Proof.Machine
end

