-- ==== Sys2Proof/Machine/Reference.lean ====
section
/-! DEFINITION. The value form of what the engine computes, independent of State: R97 over the tables of R94 to R96, R98 over a
block given as bytes, the fold of R80 over a padded message, and R164's unrolled spelling. No meaning calls any of it; the
statements hold the machine against it. -/

namespace Sys2Proof.Machine

/-- A chaining value (R9): four words in the order A, B, C, D. -/
structure Chain where
  a : Word
  b : Word
  c : Word
  d : Word
  deriving DecidableEq, Repr

/-- The chaining value INIT sets (R11). -/
def Chain.init : Chain := ⟨initA, initB, initC, initD⟩

/-- The engine's accumulators as a chaining value. -/
def State.chain (s : State) : Chain := ⟨s.A, s.B, s.C, s.D⟩

/-- The function of step i (R97): F, G, H, I by round. -/
def refFun (i : Nat) : Word → Word → Word → Word :=
  if i ≤ 15 then roundF else if i ≤ 31 then roundG else if i ≤ 47 then roundH else roundI

/-- Message word k of a block given as bytes (R33). -/
def refWord (blk : List Byte) (k : Nat) : Word :=
  wordLe (blk.getD (4 * k) 0) (blk.getD (4 * k + 1) 0) (blk.getD (4 * k + 2) 0) (blk.getD (4 * k + 3) 0)

/-- The sum a step rotates, on its four operands in reading order (R97, R164). -/
def refSum (blk : List Byte) (i : Nat) (x y z w : Word) : Word := x + refFun i y z w + refWord blk (tableK i) + tableT i

/-- STEP i in the rotating form (R97). -/
def refStep (blk : List Byte) (i : Nat) (w : Chain) : Chain :=
  ⟨w.d, w.b + rotl32 (refSum blk i w.a w.b w.c w.d) (tableS i), w.b, w.c⟩

/-- n steps from step i on, in increasing order. -/
def refSteps (blk : List Byte) : (i n : Nat) → Chain → Chain
  | _, 0, w => w
  | i, n + 1, w => refSteps blk (i + 1) n (refStep blk i w)

/-- The add-back of R98. -/
def Chain.addBack (h w : Chain) : Chain := ⟨h.a + w.a, h.b + w.b, h.c + w.c, h.d + w.d⟩

/-- COMPRESS as a function of the chaining value and the block (R98). -/
def refCompress (h : Chain) (blk : List Byte) : Chain := h.addBack (refSteps blk 0 64 h)

/-- Fold COMPRESS over the first q 64-byte blocks of a byte string (R80). -/
def refBlocks : (q : Nat) → Chain → List Byte → Chain
  | 0, h, _ => h
  | q + 1, h, bytes => refBlocks q (refCompress h (bytes.take 64)) (bytes.drop 64)

/-- The padding and length suffix at pending count n (R72's `tail` after the pending bytes). -/
def padding (n : Nat) (L0 : Len) : List Byte := 0x80 :: (List.replicate (padlen n - 1) 0x00 ++ le64 L0)

/-- A chaining value as digest bytes (R34). -/
def Chain.digest (h : Chain) : List Byte := digestBytes h.a h.b h.c h.d

/-- The padded message of R80. -/
def paddedMessage (msg : List Byte) : List Byte := msg ++ padding (msg.length % 64) (bitLength msg.length)

/-- The digest of a message (R80). -/
def md5 (msg : List Byte) : List Byte :=
  (refBlocks ((paddedMessage msg).length / 64) Chain.init (paddedMessage msg)).digest

/-- STEP i in the unrolled form (R164): the destination cycles A, D, C, B and the others are read in the cyclic order after
it: `[ABCD]`, `[DABC]`, `[CDAB]`, `[BCDA]`. -/
def unrolledStep (blk : List Byte) (i : Nat) (w : Chain) : Chain :=
  match i % 4 with
  | 0 => { w with a := w.b + rotl32 (refSum blk i w.a w.b w.c w.d) (tableS i) }
  | 1 => { w with d := w.a + rotl32 (refSum blk i w.d w.a w.b w.c) (tableS i) }
  | 2 => { w with c := w.d + rotl32 (refSum blk i w.c w.d w.a w.b) (tableS i) }
  | _ => { w with b := w.c + rotl32 (refSum blk i w.b w.c w.d w.a) (tableS i) }

/-- n unrolled steps from step i on. -/
def unrolledSteps (blk : List Byte) : (i n : Nat) → Chain → Chain
  | _, 0, w => w
  | i, n + 1, w => unrolledSteps blk (i + 1) n (unrolledStep blk i w)

/-- The unrolled form's registers read in the bracket order of step i (R164). -/
def bracketOrder (i : Nat) (w : Chain) : Chain :=
  match i % 4 with
  | 0 => w
  | 1 => ⟨w.d, w.a, w.b, w.c⟩
  | 2 => ⟨w.c, w.d, w.a, w.b⟩
  | _ => ⟨w.b, w.c, w.d, w.a⟩

end Sys2Proof.Machine
end

