-- ==== Sys2Proof/Safety.lean ====
section
/-! DEFINITION. The terms the statements are written in: when a run is over or stuck, the fault mark read from RSP, the
invariants of spec/10_state.md rule R21, well-formed command sequences (spec/70_reset_and_hazards.md rule R202), and when two
states differ only in values the spec leaves unspecified (R16). -/

namespace Sys2Proof.Machine

/-- No COMPRESS is in progress: the only states architectural rules speak of (R6). -/
def betweenCommands (s : State) : Prop := s.work = none

/-- A run is over (R58): every byte of CMD is consumed. -/
def runOver (s : State) : Prop := s.CP = s.CMD.length ∧ s.work = none

/-- The premise R192 asks every claim about a run to take. -/
def noFaultRecorded (s : State) : Prop := s.faultMark = false

/-- Read RSP response by response (R56): `skip` bytes of a DIGEST response are still to pass, `seen` says whether an ERR
response was met. The answer holds both at the end. -/
def scanRsp : List Byte → (skip : Nat) → (seen : Bool) → Nat × Bool
  | [], skip, seen => (skip, seen)
  | _ :: rest, skip + 1, seen => scanRsp rest skip seen
  | r :: rest, 0, seen =>
    if r = 0x01 then scanRsp rest 16 seen
    else if r = 0xE1 ∨ r = 0xE2 ∨ r = 0xE3 then scanRsp rest 0 true
    else scanRsp rest 0 seen

/-- What holds between commands in every state a run reaches: BUF is in its canonical form and lists exactly the pending bytes
while PHASE is READY and none otherwise (R13, R21(a)), LEN counts whole bytes (R12), CP is inside CMD (R17), and the fault
mark says what RSP says (R192). -/
structure Inv (s : State) : Prop where
  between : s.work = none
  bufWf : Memory.wf s.BUF
  bufReady : s.PHASE = .ready → s.BUF.map Prod.fst = List.range s.pending
  bufIdle : s.PHASE ≠ .ready → s.BUF = []
  wholeBytes : s.PHASE = .ready → s.lenBits = 0
  cursor : s.CP ≤ s.CMD.length
  mark : scanRsp s.RSP 0 false = (0, s.faultMark)

/-- R21 for the message absorbed since the last INIT: (a) the pending count, (b) LEN, (c) the pending bytes, (d) the
accumulators. -/
structure Absorbed (msg : List Byte) (s : State) : Prop where
  phase : s.PHASE = .ready
  count : s.pending = msg.length % 64 ∧ s.pending ≤ 63
  len : s.LEN = BitVec.ofNat 64 (8 * msg.length) ∧ s.lenBits = 0
  bytes : s.pendingBytes = msg.drop (64 * (msg.length / 64))
  chain : s.chain = refBlocks (msg.length / 64) Chain.init msg

/-- PHASE after a host command (the table of R22). -/
def phaseAfter (i : Instr) (p : Phase) : Phase :=
  match i, p with
  | .init, _ => .ready
  | .finish, .ready => .finished
  | _, p => p

/-- A well-formed sequence of commands from a phase (R202, R22): no reserved byte, and no APPEND or FINISH while PHASE is not
READY. -/
def legalFrom : Phase → List Instr → Bool
  | _, [] => true
  | p, i :: rest =>
    match i, p with
    | .init, _ => legalFrom .ready rest
    | .append _, .ready => legalFrom .ready rest
    | .finish, .ready => legalFrom .finished rest
    | _, _ => false

/-- Execute a sequence of instructions one after another. -/
def execAll : List Instr → State → Result
  | [], s => .next s
  | i :: rest, s => andThen (exec i s) (execAll rest)

/-- n steps of the engine, stopping at the first fault or refusal: what Host.Core.run does, over State itself. -/
def runSteps : Nat → State → Result
  | 0, s => .next s
  | n + 1, s => andThen (step s) (runSteps n)

/-- Two states between commands that differ only in values the spec leaves unspecified (R16): the interface, PHASE and the
fault mark agree, and while PHASE is READY so do A to D, LEN and the pending bytes. -/
structure SameButUnspecified (s t : State) : Prop where
  left : s.work = none
  right : t.work = none
  cp : s.CP = t.CP
  cmd : s.CMD = t.CMD
  rsp : s.RSP = t.RSP
  phase : s.PHASE = t.PHASE
  mark : s.faultMark = t.faultMark
  chain : s.PHASE = .ready → s.chain = t.chain
  len : s.PHASE = .ready → s.LEN = t.LEN
  bytes : s.PHASE = .ready → s.pendingBytes = t.pendingBytes

/-- Two outcomes agree up to unspecified values: the same fault, the same refusal, or next states that do. -/
def outcomesAgree : Result → Result → Prop
  | .next s, .next t => SameButUnspecified s t
  | .fault e, .fault e' => e = e'
  | .refused e, .refused e' => e = e'
  | _, _ => False

end Sys2Proof.Machine
end

