-- ==== Sys2Proof/Certificates/Slice0/Obligations.lean ====
section
/-! DEFINITION. The statements for the provers. Each docstring names the rule of spec/ it comes from. `Result`'s `next` is the
engine's next state; a statement of the form `∃ t, exec i s = .next t ∧ …` says that the instruction completes. A statement about
APPEND holds for data of any length: every length R52 admits, and the lists of 2^32 bytes or more that no stream decodes to, on
which the meaning is the model's choice (notes/assumptions/15.md). -/

open Sys2Proof Sys2Proof.Machine

/-! ## Encoding -/

/-- Decoding the encoding of a well-formed instruction gives it back, with every operand the encoding admits: INIT, APPEND of
any data, FINISH, every reserved byte, every step (spec/30_encoding.md rules R50, R52, R53, R61). -/
def Obligations.EncodingRoundTrip : Prop :=
  ∀ i : Instr, WellFormed i = true → decodeCode (encode i) = some i

/-- Commands are self-delimiting on the stream: with any bytes behind it, a command's own bytes decode to it and to its own
length (R50, R51). -/
def Obligations.CommandBytesAreSelfDelimiting : Prop :=
  ∀ (i : Instr) (rest : List Byte), WellFormed i = true → isCommand i = true →
    decode (commandBytes i ++ rest) = .command i (commandBytes i).length

/-- The other direction: whatever command the decoder reads is well formed, and the bytes it took are exactly that command's
encoding. -/
def Obligations.DecodeTakesExactlyTheEncoding : Prop :=
  ∀ (bytes : List Byte) (i : Instr) (len : Nat), decode bytes = .command i len →
    WellFormed i = true ∧ isCommand i = true ∧ bytes.take len = commandBytes i ∧ len = (commandBytes i).length

/-- The map of R53 is complete: every byte value selects INIT, APPEND, FINISH or a reserved byte, whatever follows. -/
def Obligations.OpcodeMapIsComplete : Prop :=
  ∀ (op : Byte) (rest : List Byte),
    (op = 0x01 → decode (op :: rest) = .command .init 1) ∧
    (op = 0x02 → decode (op :: rest) = .held ∨
      ∃ data, decode (op :: rest) = .command (.append data) (5 + data.length)) ∧
    (op = 0x03 → decode (op :: rest) = .command .finish 1) ∧
    (op = 0x00 ∨ 0x04 ≤ op.toNat → decode (op :: rest) = .command (.illegal op) 1)

/-- Words written out from the spec's encodings decode to what they stand for (R53, R59, R61). That the table word 0x02 of 8 bits
reads as APPEND of nothing is the model's choice: decodeTableWord takes the length bytes above the row's bits as 0
(notes/assumptions/7.md); on CMD a lone byte 0x02 is held (R54, R57). That a 6-bit table word is a step index is the same entry. -/
def Obligations.WrittenOutWordsDecode : Prop :=
  decodeTableWord 8 0x01 = some .init ∧
  decodeTableWord 8 0x02 = some (.append []) ∧
  decodeTableWord 8 0x03 = some .finish ∧
  decodeTableWord 8 0x00 = some (.illegal 0x00) ∧
  decodeTableWord 8 0xFF = some (.illegal 0xFF) ∧
  decode [0x02, 0x03, 0x00, 0x00, 0x00, 0x61, 0x62, 0x63, 0x03] = .command (.append [0x61, 0x62, 0x63]) 8 ∧
  decodeTableWord 6 0x00 = some .step0 ∧
  decodeTableWord 6 0x11 = some .step17 ∧
  decodeTableWord 6 0x3F = some .step63

/-- More bytes behind a complete command never change what it decodes to (R51: no state or later byte changes decoding). -/
def Obligations.MoreBytesNeverChangeACommand : Prop :=
  ∀ (bytes more : List Byte) (i : Instr) (len : Nat), decode bytes = .command i len → decode (bytes ++ more) = .command i len

/-- Held (R57): while the 4 length bytes or the L data bytes of an APPEND have not all arrived the engine has no step, in every
phase; it is lifted when the host has sent the missing bytes, and then the APPEND runs with exactly its L bytes. -/
def Obligations.HeldUntilTheWholeAppendArrived : Prop :=
  ∀ s : State, s.work = none →
    (∀ rest, s.unread = 0x02 :: rest → rest.length < 4 → step s = .fault .held) ∧
    (∀ b0 b1 b2 b3 payload, s.unread = 0x02 :: b0 :: b1 :: b2 :: b3 :: payload →
      payload.length < (wordLe b0 b1 b2 b3).toNat →
      step s = .fault .held ∧
      ∀ more : List Byte,
        (payload.length + more.length < (wordLe b0 b1 b2 b3).toNat → step (s.hostSend more) = .fault .held) ∧
        ((wordLe b0 b1 b2 b3).toNat ≤ payload.length + more.length →
          step (s.hostSend more) =
            exec (.append ((payload ++ more).take (wordLe b0 b1 b2 b3).toNat)) (s.hostSend more)))

/-- With no unread byte there is no step (R54, R58): the run is over. -/
def Obligations.NoStepWhenEverythingIsConsumed : Prop :=
  ∀ s : State, runOver s → step s = .fault .idle

/-- The text form (R59, R60): each line encodes as its command's bytes, and DIGEST is INIT, APPEND, FINISH. -/
def Obligations.TextFormEncodesCommands : Prop :=
  assemble [.init] = encodeAll [.init] ∧ assemble [.finish] = encodeAll [.finish] ∧
  (∀ b : Byte, assemble [.byte b] = [b]) ∧
  ∀ (o : AsmOperand) (rest : List AsmLine),
    assemble (.append o :: rest) = encodeAll [.append o.bytes] ++ assemble rest ∧
    assemble (.digest o :: rest) = encodeAll [.init, .append o.bytes, .finish] ++ assemble rest

/-- Every ASCII text can be written as an APPEND line and is read back as written, quotes and backslashes escaped, with or without
a comment behind it (R59); the line then encodes as `02`, le32(L) and the characters. -/
def Obligations.TextLinesReadBack : Prop :=
  ∀ (chars comment : List Char), (∀ c ∈ chars, c.toNat < 128) → chars.length < 2 ^ 32 →
    readLine (['A', 'P', 'P', 'E', 'N', 'D', ' ', quoteChar] ++ escapeText chars ++ quoteChar :: ';' :: comment) =
      some [.append (.text chars)] ∧
    readLine (['A', 'P', 'P', 'E', 'N', 'D', ' ', quoteChar] ++ escapeText chars ++ [quoteChar]) =
      some [.append (.text chars)] ∧
    assemble [.append (.text chars)] =
      0x02 :: (le32 (BitVec.ofNat 32 chars.length) ++ chars.map (fun c => BitVec.ofNat 8 c.toNat))

/-! ## One step -/

/-- When the unread bytes decode to a command, one step of the engine is that command's execution (R54). -/
def Obligations.StepRunsTheDecodedCommand : Prop :=
  ∀ (s : State) (i : Instr) (len : Nat), s.work = none → decode s.unread = .command i len → step s = exec i s

/-- Inside a COMPRESS one step runs the STEP its index selects and then moves the loop on (R61, R98); this is the model's own
way to let a STEP be the next instruction (notes/assumptions/6.md). -/
def Obligations.StepInsideCompressRunsTheIndexedStep : Prop :=
  ∀ (s : State) (w : Work), s.work = some w →
    ∃ t w', exec (decodeStep w.i) s = .next t ∧ t.work = some w' ∧ w'.i = w.i ∧
      (w.i ≠ 63 → step s = .next (t.setWork (some { w' with i := w.i + 1 }))) ∧
      (w.i = 63 → step s =
        .next ((t.setChain (t.A + w'.a) (t.B + w'.b) (t.C + w'.c) (t.D + w'.d)).setWork none))

/-- Every host command completes in every state between commands: it answers a next state, with exactly one response, and CP
moves by exactly its encoded length, whether it succeeds or faults; CMD is not written (R17, R41, R56). -/
def Obligations.EveryCommandCompletesWithOneResponse : Prop :=
  ∀ (i : Instr) (s : State), isCommand i = true → s.work = none →
    ∃ t r, exec i s = .next t ∧ t.RSP = s.RSP ++ Response.bytes r ∧ t.CP = s.CP + (commandBytes i).length ∧
      t.CMD = s.CMD ∧ t.work = none

/-- The streams (R20): no step writes CMD, a step only appends to RSP, and RSP is empty after reset. -/
def Obligations.StreamsAreConsumedAndAppendedOnly : Prop :=
  State.reset.RSP = [] ∧ (∀ s : State, s.hardwareReset.RSP = []) ∧
  ∀ s t : State, step s = .next t → t.CMD = s.CMD ∧ s.RSP <+: t.RSP ∧ s.CP ≤ t.CP

/-! ## INIT -/

/-- INIT (R70) completes in every state: the four constants, LEN 0 and so no pending byte, PHASE READY, response OK, CP + 1; CMD,
the working registers and the fault mark are unchanged. (BUF is unspecified afterwards.) -/
def Obligations.InitStartsANewMessage : Prop :=
  ∀ s : State, ∃ t, exec .init s = .next t ∧
    t.A = 0x67452301 ∧ t.B = 0xefcdab89 ∧ t.C = 0x98badcfe ∧ t.D = 0x10325476 ∧
    t.LEN = 0 ∧ t.pending = 0 ∧ t.PHASE = .ready ∧ t.RSP = s.RSP ++ [0x00] ∧ t.CP = s.CP + 1 ∧
    t.CMD = s.CMD ∧ t.work = s.work ∧ t.faultMark = s.faultMark

/-- Nothing of what was before survives INIT (R70, R186, R206): from any two states it leaves the same accumulators, LEN, PHASE
and pending bytes. So two INITs equal one (R38), and INIT recovers from any fault or message in progress. R70 and R13 leave BUF
unspecified after INIT: that `t.BUF` and `t'.BUF` are the same list, the empty one, is the model's form of "unspecified"
(notes/assumptions/3.md) and says nothing of what the bytes hold. -/
def Obligations.InitForgetsEverything : Prop :=
  ∀ s s' t t' : State, exec .init s = .next t → exec .init s' = .next t' →
    t.chain = t'.chain ∧ t.LEN = t'.LEN ∧ t.PHASE = t'.PHASE ∧ t.BUF = t'.BUF ∧ t.pendingBytes = t'.pendingBytes

/-! ## APPEND -/

/-- APPEND (R71), in the block form. While READY, with stream = pending bytes ++ data, q whole blocks and r bytes left over, it
completes: A to D are the fold of COMPRESS over the q blocks in order, BUF[0..r-1] is what is left over, LEN grows by 8L, the
response is OK and CP moves by 5 + L; PHASE, CMD, the fault mark and the absence of working registers are unchanged. (BUF[r..63]
is unspecified between commands, R13.) In the two other phases it is the fault entry of a command of 5 + L bytes. -/
def Obligations.AppendAbsorbsWholeBlocks : Prop :=
  ∀ (data : List Byte) (s : State), s.work = none →
    (s.PHASE = .ready → ∃ t, exec (.append data) s = .next t ∧
      t.chain = refBlocks ((s.pending + data.length) / 64) s.chain (s.pendingBytes ++ data) ∧
      t.pendingBytes = (s.pendingBytes ++ data).drop (64 * ((s.pending + data.length) / 64)) ∧
      t.LEN = s.LEN + BitVec.ofNat 64 (8 * data.length) ∧
      t.PHASE = .ready ∧ t.RSP = s.RSP ++ [0x00] ∧ t.CP = s.CP + (5 + data.length) ∧
      t.CMD = s.CMD ∧ t.work = none ∧ t.faultMark = s.faultMark) ∧
    (s.PHASE = .uninit → exec (.append data) s = .next (s.raise .notInitialized (5 + data.length))) ∧
    (s.PHASE = .finished → exec (.append data) s = .next (s.raise .alreadyFinished (5 + data.length)))

/-- An APPEND that fills no block only buffers (R71's corner cases): A to D are unchanged, the pending bytes before stay where
they are and the data follows them; with no data nothing changes at all but the response and CP. -/
def Obligations.ShortAppendOnlyBuffers : Prop :=
  ∀ (data : List Byte) (s : State), s.PHASE = .ready → s.work = none → s.pending + data.length < 64 →
    ∃ t, exec (.append data) s = .next t ∧
      t.A = s.A ∧ t.B = s.B ∧ t.C = s.C ∧ t.D = s.D ∧ t.PHASE = .ready ∧
      (∀ j, j < s.pending → t.byteAt j = s.byteAt j) ∧
      (∀ j (h : j < data.length), t.byteAt (s.pending + j) = data[j]) ∧
      t.pending = s.pending + data.length ∧ (data = [] → t.LEN = s.LEN)

/-- The arithmetic of LEN (R76): the length in bits is exact, APPEND adds it modulo 2^64 and raises nothing, LEN[2:0] is 0 after
INIT and never disturbed, and the pending count is right even after a wrap. -/
def Obligations.LenCountsBitsModulo2To64 : Prop :=
  (∀ L : Nat, L < 2 ^ 32 → (bitLength L).toNat = 8 * L) ∧
  (∀ s : State, ∃ t, exec .init s = .next t ∧ t.lenBits = 0) ∧
  ∀ (data : List Byte) (s : State), s.PHASE = .ready → s.work = none →
    ∃ t, exec (.append data) s = .next t ∧
      t.LEN.toNat = (s.LEN.toNat + 8 * data.length) % 2 ^ 64 ∧
      t.pending = (s.pending + data.length) % 64 ∧ t.lenBits = s.lenBits ∧ t.faultMark = s.faultMark

/-- Chunk-invariance (R73): appending the pieces one by one, empty ones among them, leaves the same A to D, LEN, pending bytes
and PHASE as appending them all at once, and FINISH then answers the same digest. -/
def Obligations.ChunkInvariance : Prop :=
  ∀ (pieces : List (List Byte)) (s : State), s.PHASE = .ready → s.work = none →
    ∃ t u, execAll (pieces.map .append) s = .next t ∧ exec (.append pieces.flatten) s = .next u ∧
      t.chain = u.chain ∧ t.LEN = u.LEN ∧ t.pendingBytes = u.pendingBytes ∧ t.PHASE = u.PHASE ∧
      ∃ t' u' dg, exec .finish t = .next t' ∧ exec .finish u = .next u' ∧ dg.length = 16 ∧
        t'.RSP = t.RSP ++ 0x01 :: dg ∧ u'.RSP = u.RSP ++ 0x01 :: dg

/-! ## FINISH -/

/-- FINISH (R72), in the value form. While READY it completes: the response is DIGEST of the fold of COMPRESS over tail = pending
bytes ++ 0x80 ++ zeros ++ le64(LEN), one block when n <= 55 and two when n >= 56; PHASE is FINISHED, CP + 1; CMD, the fault mark
and the absence of working registers are unchanged. A to D, LEN and BUF are left unspecified: nothing is said of them. In the two
other phases it is the fault entry of a 1-byte command. -/
def Obligations.FinishEmitsTheDigestOfThePaddedTail : Prop :=
  ∀ s : State, s.work = none →
    (s.PHASE = .ready → ∃ t tail, exec .finish s = .next t ∧
      tail = s.pendingBytes ++ ([0x80] ++ List.replicate (padlen s.pending - 1) 0x00 ++ le64 s.LEN) ∧
      tail.length = (if s.pending ≤ 55 then 64 else 128) ∧
      t.RSP = s.RSP ++ 0x01 :: (refBlocks (if s.pending ≤ 55 then 1 else 2) s.chain tail).digest ∧
      t.PHASE = .finished ∧ t.CP = s.CP + 1 ∧ t.CMD = s.CMD ∧ t.work = none ∧ t.faultMark = s.faultMark) ∧
    (s.PHASE = .uninit → exec .finish s = .next (s.raise .notInitialized 1)) ∧
    (s.PHASE = .finished → exec .finish s = .next (s.raise .alreadyFinished 1))

/-- The padding length (R74), at every pending count: `((55 - n) mod 64) + 1`, between 1 and 64, and n + padlen(n) + 8 is one
block when n <= 55 and two when n >= 56. -/
def Obligations.PaddingLengthFillsOneOrTwoBlocks : Prop :=
  ∀ n : Nat, n ≤ 63 →
    ((padlen n : Nat) : Int) = (55 - (n : Int)) % 64 + 1 ∧ 1 ≤ padlen n ∧ padlen n ≤ 64 ∧
    (n ≤ 55 → padlen n = 56 - n ∧ n + padlen n + 8 = 64) ∧
    (56 ≤ n → padlen n = 120 - n ∧ n + padlen n + 8 = 128)

/-- The length suffix (R35): the padded tail is whole blocks, its last 8 bytes are LEN least significant byte first, and in the
last block message words 14 and 15 are LEN[31:0] and LEN[63:32]. -/
def Obligations.LengthSuffixLayout : Prop :=
  ∀ (pre : List Byte) (L0 : Len) (tail : List Byte), pre.length ≤ 63 → tail = pre ++ padding pre.length L0 →
    tail.length % 64 = 0 ∧
    (∀ m, m < 8 → tail[tail.length - 8 + m]? = some (L0.extractLsb' (8 * m) 8)) ∧
    refWord (tail.drop (tail.length - 64)) 14 = L0.extractLsb' 0 32 ∧
    refWord (tail.drop (tail.length - 64)) 15 = L0.extractLsb' 32 32

/-! ## Faults -/

/-- APPEND and FINISH outside READY (R182): rejected whole, with the cause PHASE names; no register changes, the whole command is
consumed, payload included. -/
def Obligations.MisuseIsRejectedWhole : Prop :=
  ∀ (i : Instr) (s : State), (i = .finish ∨ ∃ data, i = .append data) → s.PHASE ≠ .ready →
    ∃ t, exec i s = .next t ∧
      t.A = s.A ∧ t.B = s.B ∧ t.C = s.C ∧ t.D = s.D ∧ t.LEN = s.LEN ∧ t.BUF = s.BUF ∧
      (∀ a, t.byteAt a = s.byteAt a) ∧ t.PHASE = s.PHASE ∧
      (s.PHASE = .uninit → t.RSP = s.RSP ++ [0xE2]) ∧ (s.PHASE = .finished → t.RSP = s.RSP ++ [0xE3]) ∧
      t.CP = s.CP + (commandBytes i).length ∧ t.CMD = s.CMD ∧ t.work = s.work ∧ t.faultMark = true

/-- A reserved opcode byte (R55, R181): ILLEGAL completes in every state with IllegalCommand, no register changes, and on the
stream such a byte is consumed alone, whatever follows it. -/
def Obligations.ReservedByteRaisesIllegalCommand : Prop :=
  ∀ (op : Byte) (s : State), ∃ t, exec (.illegal op) s = .next t ∧
    t.A = s.A ∧ t.B = s.B ∧ t.C = s.C ∧ t.D = s.D ∧ t.LEN = s.LEN ∧ t.BUF = s.BUF ∧
    (∀ a, t.byteAt a = s.byteAt a) ∧ t.PHASE = s.PHASE ∧ t.RSP = s.RSP ++ [0xE1] ∧ t.CP = s.CP + 1 ∧
    t.CMD = s.CMD ∧ t.work = s.work ∧ t.faultMark = true ∧
    ∀ rest, s.work = none → op ≠ 0x01 → op ≠ 0x02 → op ≠ 0x03 → s.unread = op :: rest → step s = .next t

/-- Faults are precise (R183): a command that raises has exactly one effect, ERR(c) appended, CP moved past it and the fault
mark set; every register is as before. -/
def Obligations.FaultsArePrecise : Prop :=
  ∀ (i : Instr) (s t : State), isCommand i = true → s.work = none → exec i s = .next t → s.faultMark = false →
    t.faultMark = true →
    ∃ c : Cause, t.RSP = s.RSP ++ [0xE0 ||| c.code] ∧ t.CP = s.CP + (commandBytes i).length ∧
      t.A = s.A ∧ t.B = s.B ∧ t.C = s.C ∧ t.D = s.D ∧ t.LEN = s.LEN ∧ t.BUF = s.BUF ∧ t.PHASE = s.PHASE ∧
      t.CMD = s.CMD ∧ t.work = s.work

/-- The fault mark is never cleared by a step, not even by INIT (R192). -/
def Obligations.FaultMarkIsNeverCleared : Prop :=
  ∀ s t : State, step s = .next t → s.faultMark = true → t.faultMark = true

/-- The phase table of R22, row by row: INIT, APPEND, FINISH and a reserved byte from each phase, with the response that tells
the fault, and reset. From READY too, INIT restarts the message: the accumulators are the initial constants, LEN is 0 and no byte
is pending, whatever was in progress. -/
def Obligations.PhaseTransitionTable : Prop :=
  ∀ s : State, s.work = none →
    (∃ t, exec .init s = .next t ∧ t.PHASE = .ready ∧ t.RSP = s.RSP ++ [0x00] ∧
      t.chain = Chain.init ∧ t.LEN = 0 ∧ t.pendingBytes = []) ∧
    (∀ data, ∃ t, exec (.append data) s = .next t ∧ t.PHASE = s.PHASE ∧
      (s.PHASE = .uninit → t.RSP = s.RSP ++ [0xE2]) ∧
      (s.PHASE = .ready → t.RSP = s.RSP ++ [0x00]) ∧
      (s.PHASE = .finished → t.RSP = s.RSP ++ [0xE3])) ∧
    (∃ t, exec .finish s = .next t ∧
      (s.PHASE = .uninit → t.PHASE = .uninit ∧ t.RSP = s.RSP ++ [0xE2]) ∧
      (s.PHASE = .ready → t.PHASE = .finished) ∧
      (s.PHASE = .finished → t.PHASE = .finished ∧ t.RSP = s.RSP ++ [0xE3])) ∧
    (∀ op, ∃ t, exec (.illegal op) s = .next t ∧ t.PHASE = s.PHASE ∧ t.RSP = s.RSP ++ [0xE1]) ∧
    s.hardwareReset.PHASE = .uninit

/-- INIT is the only command that changes PHASE to READY, and FINISH the only one that changes it to FINISHED (R79, R22). -/
def Obligations.OnlyInitMakesTheEngineReady : Prop :=
  ∀ s t : State, s.work = none → step s = .next t →
    (s.PHASE ≠ .ready → t.PHASE = .ready → ∃ len, decode s.unread = .command .init len) ∧
    (s.PHASE ≠ .finished → t.PHASE = .finished → ∃ len, decode s.unread = .command .finish len)

/-! ## Reset -/

/-- The reset event, in any state (R200): PHASE is UNINIT, CP is 0, CMD and RSP are empty, a COMPRESS in progress is gone; the
state right after reset is such a state (R23), and no step leads to UNINIT: reset is the only way there. Nothing is said of A, B,
C, D, LEN, BUF: they are unspecified. -/
def Obligations.ResetIsTheOnlyWayToUninit : Prop :=
  (∀ s : State, s.hardwareReset.PHASE = .uninit ∧ s.hardwareReset.CP = 0 ∧ s.hardwareReset.CMD = [] ∧
    s.hardwareReset.RSP = [] ∧ s.hardwareReset.work = none) ∧
  (State.reset.PHASE = .uninit ∧ State.reset.CP = 0 ∧ State.reset.CMD = [] ∧ State.reset.RSP = [] ∧
    State.reset.work = none) ∧
  ∀ s t : State, step s = .next t → t.PHASE = .uninit → s.PHASE = .uninit

/-! ## COMPRESS and its steps -/

/-- STEP 0 to STEP 10 (R100 to R110): each completes whenever a COMPRESS is in progress, moves the working registers as
its rule says with the rule's own function, message word, constant and rotation, and changes nothing else. -/
def Obligations.Steps0To10 : Prop :=
  ∀ (s : State) (w : Work), s.work = some w →
    exec .step0 s = .next (s.setWork (some ⟨w.d, w.b + rotl32 (w.a + roundF w.b w.c w.d + s.msgWord 0 + 0xd76aa478) 7, w.b, w.c, w.i⟩)) ∧
    exec .step1 s = .next (s.setWork (some ⟨w.d, w.b + rotl32 (w.a + roundF w.b w.c w.d + s.msgWord 1 + 0xe8c7b756) 12, w.b, w.c, w.i⟩)) ∧
    exec .step2 s = .next (s.setWork (some ⟨w.d, w.b + rotl32 (w.a + roundF w.b w.c w.d + s.msgWord 2 + 0x242070db) 17, w.b, w.c, w.i⟩)) ∧
    exec .step3 s = .next (s.setWork (some ⟨w.d, w.b + rotl32 (w.a + roundF w.b w.c w.d + s.msgWord 3 + 0xc1bdceee) 22, w.b, w.c, w.i⟩)) ∧
    exec .step4 s = .next (s.setWork (some ⟨w.d, w.b + rotl32 (w.a + roundF w.b w.c w.d + s.msgWord 4 + 0xf57c0faf) 7, w.b, w.c, w.i⟩)) ∧
    exec .step5 s = .next (s.setWork (some ⟨w.d, w.b + rotl32 (w.a + roundF w.b w.c w.d + s.msgWord 5 + 0x4787c62a) 12, w.b, w.c, w.i⟩)) ∧
    exec .step6 s = .next (s.setWork (some ⟨w.d, w.b + rotl32 (w.a + roundF w.b w.c w.d + s.msgWord 6 + 0xa8304613) 17, w.b, w.c, w.i⟩)) ∧
    exec .step7 s = .next (s.setWork (some ⟨w.d, w.b + rotl32 (w.a + roundF w.b w.c w.d + s.msgWord 7 + 0xfd469501) 22, w.b, w.c, w.i⟩)) ∧
    exec .step8 s = .next (s.setWork (some ⟨w.d, w.b + rotl32 (w.a + roundF w.b w.c w.d + s.msgWord 8 + 0x698098d8) 7, w.b, w.c, w.i⟩)) ∧
    exec .step9 s = .next (s.setWork (some ⟨w.d, w.b + rotl32 (w.a + roundF w.b w.c w.d + s.msgWord 9 + 0x8b44f7af) 12, w.b, w.c, w.i⟩)) ∧
    exec .step10 s = .next (s.setWork (some ⟨w.d, w.b + rotl32 (w.a + roundF w.b w.c w.d + s.msgWord 10 + 0xffff5bb1) 17, w.b, w.c, w.i⟩))

/-- STEP 11 to STEP 21 (R111 to R121): each completes whenever a COMPRESS is in progress, moves the working registers as
its rule says with the rule's own function, message word, constant and rotation, and changes nothing else. -/
def Obligations.Steps11To21 : Prop :=
  ∀ (s : State) (w : Work), s.work = some w →
    exec .step11 s = .next (s.setWork (some ⟨w.d, w.b + rotl32 (w.a + roundF w.b w.c w.d + s.msgWord 11 + 0x895cd7be) 22, w.b, w.c, w.i⟩)) ∧
    exec .step12 s = .next (s.setWork (some ⟨w.d, w.b + rotl32 (w.a + roundF w.b w.c w.d + s.msgWord 12 + 0x6b901122) 7, w.b, w.c, w.i⟩)) ∧
    exec .step13 s = .next (s.setWork (some ⟨w.d, w.b + rotl32 (w.a + roundF w.b w.c w.d + s.msgWord 13 + 0xfd987193) 12, w.b, w.c, w.i⟩)) ∧
    exec .step14 s = .next (s.setWork (some ⟨w.d, w.b + rotl32 (w.a + roundF w.b w.c w.d + s.msgWord 14 + 0xa679438e) 17, w.b, w.c, w.i⟩)) ∧
    exec .step15 s = .next (s.setWork (some ⟨w.d, w.b + rotl32 (w.a + roundF w.b w.c w.d + s.msgWord 15 + 0x49b40821) 22, w.b, w.c, w.i⟩)) ∧
    exec .step16 s = .next (s.setWork (some ⟨w.d, w.b + rotl32 (w.a + roundG w.b w.c w.d + s.msgWord 1 + 0xf61e2562) 5, w.b, w.c, w.i⟩)) ∧
    exec .step17 s = .next (s.setWork (some ⟨w.d, w.b + rotl32 (w.a + roundG w.b w.c w.d + s.msgWord 6 + 0xc040b340) 9, w.b, w.c, w.i⟩)) ∧
    exec .step18 s = .next (s.setWork (some ⟨w.d, w.b + rotl32 (w.a + roundG w.b w.c w.d + s.msgWord 11 + 0x265e5a51) 14, w.b, w.c, w.i⟩)) ∧
    exec .step19 s = .next (s.setWork (some ⟨w.d, w.b + rotl32 (w.a + roundG w.b w.c w.d + s.msgWord 0 + 0xe9b6c7aa) 20, w.b, w.c, w.i⟩)) ∧
    exec .step20 s = .next (s.setWork (some ⟨w.d, w.b + rotl32 (w.a + roundG w.b w.c w.d + s.msgWord 5 + 0xd62f105d) 5, w.b, w.c, w.i⟩)) ∧
    exec .step21 s = .next (s.setWork (some ⟨w.d, w.b + rotl32 (w.a + roundG w.b w.c w.d + s.msgWord 10 + 0x02441453) 9, w.b, w.c, w.i⟩))

/-- STEP 22 to STEP 32 (R122 to R132): each completes whenever a COMPRESS is in progress, moves the working registers as
its rule says with the rule's own function, message word, constant and rotation, and changes nothing else. -/
def Obligations.Steps22To32 : Prop :=
  ∀ (s : State) (w : Work), s.work = some w →
    exec .step22 s = .next (s.setWork (some ⟨w.d, w.b + rotl32 (w.a + roundG w.b w.c w.d + s.msgWord 15 + 0xd8a1e681) 14, w.b, w.c, w.i⟩)) ∧
    exec .step23 s = .next (s.setWork (some ⟨w.d, w.b + rotl32 (w.a + roundG w.b w.c w.d + s.msgWord 4 + 0xe7d3fbc8) 20, w.b, w.c, w.i⟩)) ∧
    exec .step24 s = .next (s.setWork (some ⟨w.d, w.b + rotl32 (w.a + roundG w.b w.c w.d + s.msgWord 9 + 0x21e1cde6) 5, w.b, w.c, w.i⟩)) ∧
    exec .step25 s = .next (s.setWork (some ⟨w.d, w.b + rotl32 (w.a + roundG w.b w.c w.d + s.msgWord 14 + 0xc33707d6) 9, w.b, w.c, w.i⟩)) ∧
    exec .step26 s = .next (s.setWork (some ⟨w.d, w.b + rotl32 (w.a + roundG w.b w.c w.d + s.msgWord 3 + 0xf4d50d87) 14, w.b, w.c, w.i⟩)) ∧
    exec .step27 s = .next (s.setWork (some ⟨w.d, w.b + rotl32 (w.a + roundG w.b w.c w.d + s.msgWord 8 + 0x455a14ed) 20, w.b, w.c, w.i⟩)) ∧
    exec .step28 s = .next (s.setWork (some ⟨w.d, w.b + rotl32 (w.a + roundG w.b w.c w.d + s.msgWord 13 + 0xa9e3e905) 5, w.b, w.c, w.i⟩)) ∧
    exec .step29 s = .next (s.setWork (some ⟨w.d, w.b + rotl32 (w.a + roundG w.b w.c w.d + s.msgWord 2 + 0xfcefa3f8) 9, w.b, w.c, w.i⟩)) ∧
    exec .step30 s = .next (s.setWork (some ⟨w.d, w.b + rotl32 (w.a + roundG w.b w.c w.d + s.msgWord 7 + 0x676f02d9) 14, w.b, w.c, w.i⟩)) ∧
    exec .step31 s = .next (s.setWork (some ⟨w.d, w.b + rotl32 (w.a + roundG w.b w.c w.d + s.msgWord 12 + 0x8d2a4c8a) 20, w.b, w.c, w.i⟩)) ∧
    exec .step32 s = .next (s.setWork (some ⟨w.d, w.b + rotl32 (w.a + roundH w.b w.c w.d + s.msgWord 5 + 0xfffa3942) 4, w.b, w.c, w.i⟩))

/-- STEP 33 to STEP 43 (R133 to R143): each completes whenever a COMPRESS is in progress, moves the working registers as
its rule says with the rule's own function, message word, constant and rotation, and changes nothing else. -/
def Obligations.Steps33To43 : Prop :=
  ∀ (s : State) (w : Work), s.work = some w →
    exec .step33 s = .next (s.setWork (some ⟨w.d, w.b + rotl32 (w.a + roundH w.b w.c w.d + s.msgWord 8 + 0x8771f681) 11, w.b, w.c, w.i⟩)) ∧
    exec .step34 s = .next (s.setWork (some ⟨w.d, w.b + rotl32 (w.a + roundH w.b w.c w.d + s.msgWord 11 + 0x6d9d6122) 16, w.b, w.c, w.i⟩)) ∧
    exec .step35 s = .next (s.setWork (some ⟨w.d, w.b + rotl32 (w.a + roundH w.b w.c w.d + s.msgWord 14 + 0xfde5380c) 23, w.b, w.c, w.i⟩)) ∧
    exec .step36 s = .next (s.setWork (some ⟨w.d, w.b + rotl32 (w.a + roundH w.b w.c w.d + s.msgWord 1 + 0xa4beea44) 4, w.b, w.c, w.i⟩)) ∧
    exec .step37 s = .next (s.setWork (some ⟨w.d, w.b + rotl32 (w.a + roundH w.b w.c w.d + s.msgWord 4 + 0x4bdecfa9) 11, w.b, w.c, w.i⟩)) ∧
    exec .step38 s = .next (s.setWork (some ⟨w.d, w.b + rotl32 (w.a + roundH w.b w.c w.d + s.msgWord 7 + 0xf6bb4b60) 16, w.b, w.c, w.i⟩)) ∧
    exec .step39 s = .next (s.setWork (some ⟨w.d, w.b + rotl32 (w.a + roundH w.b w.c w.d + s.msgWord 10 + 0xbebfbc70) 23, w.b, w.c, w.i⟩)) ∧
    exec .step40 s = .next (s.setWork (some ⟨w.d, w.b + rotl32 (w.a + roundH w.b w.c w.d + s.msgWord 13 + 0x289b7ec6) 4, w.b, w.c, w.i⟩)) ∧
    exec .step41 s = .next (s.setWork (some ⟨w.d, w.b + rotl32 (w.a + roundH w.b w.c w.d + s.msgWord 0 + 0xeaa127fa) 11, w.b, w.c, w.i⟩)) ∧
    exec .step42 s = .next (s.setWork (some ⟨w.d, w.b + rotl32 (w.a + roundH w.b w.c w.d + s.msgWord 3 + 0xd4ef3085) 16, w.b, w.c, w.i⟩)) ∧
    exec .step43 s = .next (s.setWork (some ⟨w.d, w.b + rotl32 (w.a + roundH w.b w.c w.d + s.msgWord 6 + 0x04881d05) 23, w.b, w.c, w.i⟩))

/-- STEP 44 to STEP 53 (R144 to R153): each completes whenever a COMPRESS is in progress, moves the working registers as
its rule says with the rule's own function, message word, constant and rotation, and changes nothing else. -/
def Obligations.Steps44To53 : Prop :=
  ∀ (s : State) (w : Work), s.work = some w →
    exec .step44 s = .next (s.setWork (some ⟨w.d, w.b + rotl32 (w.a + roundH w.b w.c w.d + s.msgWord 9 + 0xd9d4d039) 4, w.b, w.c, w.i⟩)) ∧
    exec .step45 s = .next (s.setWork (some ⟨w.d, w.b + rotl32 (w.a + roundH w.b w.c w.d + s.msgWord 12 + 0xe6db99e5) 11, w.b, w.c, w.i⟩)) ∧
    exec .step46 s = .next (s.setWork (some ⟨w.d, w.b + rotl32 (w.a + roundH w.b w.c w.d + s.msgWord 15 + 0x1fa27cf8) 16, w.b, w.c, w.i⟩)) ∧
    exec .step47 s = .next (s.setWork (some ⟨w.d, w.b + rotl32 (w.a + roundH w.b w.c w.d + s.msgWord 2 + 0xc4ac5665) 23, w.b, w.c, w.i⟩)) ∧
    exec .step48 s = .next (s.setWork (some ⟨w.d, w.b + rotl32 (w.a + roundI w.b w.c w.d + s.msgWord 0 + 0xf4292244) 6, w.b, w.c, w.i⟩)) ∧
    exec .step49 s = .next (s.setWork (some ⟨w.d, w.b + rotl32 (w.a + roundI w.b w.c w.d + s.msgWord 7 + 0x432aff97) 10, w.b, w.c, w.i⟩)) ∧
    exec .step50 s = .next (s.setWork (some ⟨w.d, w.b + rotl32 (w.a + roundI w.b w.c w.d + s.msgWord 14 + 0xab9423a7) 15, w.b, w.c, w.i⟩)) ∧
    exec .step51 s = .next (s.setWork (some ⟨w.d, w.b + rotl32 (w.a + roundI w.b w.c w.d + s.msgWord 5 + 0xfc93a039) 21, w.b, w.c, w.i⟩)) ∧
    exec .step52 s = .next (s.setWork (some ⟨w.d, w.b + rotl32 (w.a + roundI w.b w.c w.d + s.msgWord 12 + 0x655b59c3) 6, w.b, w.c, w.i⟩)) ∧
    exec .step53 s = .next (s.setWork (some ⟨w.d, w.b + rotl32 (w.a + roundI w.b w.c w.d + s.msgWord 3 + 0x8f0ccc92) 10, w.b, w.c, w.i⟩))

/-- STEP 54 to STEP 63 (R154 to R163): each completes whenever a COMPRESS is in progress, moves the working registers as
its rule says with the rule's own function, message word, constant and rotation, and changes nothing else. -/
def Obligations.Steps54To63 : Prop :=
  ∀ (s : State) (w : Work), s.work = some w →
    exec .step54 s = .next (s.setWork (some ⟨w.d, w.b + rotl32 (w.a + roundI w.b w.c w.d + s.msgWord 10 + 0xffeff47d) 15, w.b, w.c, w.i⟩)) ∧
    exec .step55 s = .next (s.setWork (some ⟨w.d, w.b + rotl32 (w.a + roundI w.b w.c w.d + s.msgWord 1 + 0x85845dd1) 21, w.b, w.c, w.i⟩)) ∧
    exec .step56 s = .next (s.setWork (some ⟨w.d, w.b + rotl32 (w.a + roundI w.b w.c w.d + s.msgWord 8 + 0x6fa87e4f) 6, w.b, w.c, w.i⟩)) ∧
    exec .step57 s = .next (s.setWork (some ⟨w.d, w.b + rotl32 (w.a + roundI w.b w.c w.d + s.msgWord 15 + 0xfe2ce6e0) 10, w.b, w.c, w.i⟩)) ∧
    exec .step58 s = .next (s.setWork (some ⟨w.d, w.b + rotl32 (w.a + roundI w.b w.c w.d + s.msgWord 6 + 0xa3014314) 15, w.b, w.c, w.i⟩)) ∧
    exec .step59 s = .next (s.setWork (some ⟨w.d, w.b + rotl32 (w.a + roundI w.b w.c w.d + s.msgWord 13 + 0x4e0811a1) 21, w.b, w.c, w.i⟩)) ∧
    exec .step60 s = .next (s.setWork (some ⟨w.d, w.b + rotl32 (w.a + roundI w.b w.c w.d + s.msgWord 4 + 0xf7537e82) 6, w.b, w.c, w.i⟩)) ∧
    exec .step61 s = .next (s.setWork (some ⟨w.d, w.b + rotl32 (w.a + roundI w.b w.c w.d + s.msgWord 11 + 0xbd3af235) 10, w.b, w.c, w.i⟩)) ∧
    exec .step62 s = .next (s.setWork (some ⟨w.d, w.b + rotl32 (w.a + roundI w.b w.c w.d + s.msgWord 2 + 0x2ad7d2bb) 15, w.b, w.c, w.i⟩)) ∧
    exec .step63 s = .next (s.setWork (some ⟨w.d, w.b + rotl32 (w.a + roundI w.b w.c w.d + s.msgWord 9 + 0xeb86d391) 21, w.b, w.c, w.i⟩))

/-- The general rule of a step (R97) over the tables T, S, K (R94 to R96): whatever step the index selects, on any working
registers. -/
def Obligations.StepsFollowTheTables : Prop :=
  ∀ (i : BitVec 6) (s : State) (w : Work) (f : Word → Word → Word → Word), s.work = some w →
    f = (if i.toNat ≤ 15 then roundF else if i.toNat ≤ 31 then roundG else if i.toNat ≤ 47 then roundH else roundI) →
    exec (decodeStep i) s = .next (s.setWork (some
      ⟨w.d, w.b + rotl32 (w.a + f w.b w.c w.d + s.msgWord (tableK i.toNat) + tableT i.toNat) (tableS i.toNat), w.b, w.c, w.i⟩))

/-- Outside a COMPRESS a step has no registers to work on (R18, R61) and is refused by name; the model's choice
(notes/assumptions/6.md). -/
def Obligations.StepOutsideCompressIsRefused : Prop :=
  ∀ (i : BitVec 6) (s : State), s.work = none → exec (decodeStep i) s = .refused .stepOutsideCompress

/-- COMPRESS (R98): 64 steps from the copy-in, then the add-back; it is what APPEND and FINISH run, it writes A to D only, and it
ends without working registers. That `step` itself takes one of these 64 steps when a COMPRESS is in progress (the clause with
`runSteps`) is the model's choice (notes/assumptions/6.md): by R6 a step of the engine is a whole command. -/
def Obligations.CompressRunsSixtyFourSteps : Prop :=
  ∀ s : State, ∃ t, runSteps 64 (s.beginCompress 0) = .next t ∧ compress s = .next t ∧
    t.chain = s.chain.addBack (refSteps s.block 0 64 s.chain) ∧
    t.LEN = s.LEN ∧ t.BUF = s.BUF ∧ (∀ a, t.byteAt a = s.byteAt a) ∧ t.PHASE = s.PHASE ∧ t.CP = s.CP ∧ t.CMD = s.CMD ∧
    t.RSP = s.RSP ∧ t.work = none ∧ t.faultMark = s.faultMark

/-- The unrolled spelling (R164): after any number of steps the rotating registers are the unrolled ones read in the bracket
order of the next step, and after every group of four they coincide name for name. -/
def Obligations.UnrolledFormAgrees : Prop :=
  ∀ (blk : List Byte) (h : Chain),
    (∀ n, refSteps blk 0 n h = bracketOrder n (unrolledSteps blk 0 n h)) ∧
    (∀ m, refSteps blk 0 (4 * m) h = unrolledSteps blk 0 (4 * m) h)

/-- The round functions bit by bit (R90 to R93): F is "if x then y else z", G is "if z then x else y", H is the parity, I is
`y ^ (x | ~z)`; and their corner cases. -/
def Obligations.RoundFunctionsBitByBit : Prop :=
  ∀ x y z : Word,
    (∀ k, k < 32 →
      (roundF x y z).getLsbD k = (if x.getLsbD k then y.getLsbD k else z.getLsbD k) ∧
      (roundG x y z).getLsbD k = (if z.getLsbD k then x.getLsbD k else y.getLsbD k) ∧
      (roundH x y z).getLsbD k = ((x.getLsbD k ^^ y.getLsbD k) ^^ z.getLsbD k) ∧
      (roundI x y z).getLsbD k = (y.getLsbD k ^^ (x.getLsbD k || !z.getLsbD k))) ∧
    roundF 0 y z = z ∧ roundF 0xFFFFFFFF y z = y ∧ roundG x y 0 = y ∧ roundG x y 0xFFFFFFFF = x ∧
    roundH x x z = z ∧ roundI x y 0 = ~~~y ∧ roundI 0 y 0xFFFFFFFF = y

/-- The 32-bit arithmetic (R99): addition is modulo 2^32, the complement is 0xFFFFFFFF - x, and the rotation moves bit p to bit
(p + r) mod 32 and loses none. -/
def Obligations.WordArithmetic : Prop :=
  ∀ x y : Word,
    (x + y).toNat = (x.toNat + y.toNat) % 2 ^ 32 ∧ (~~~x).toNat = 0xFFFFFFFF - x.toNat ∧
    ∀ r p, 1 ≤ r → r ≤ 31 → p < 32 → (rotl32 x r).getLsbD ((p + r) % 32) = x.getLsbD p

/-! ## Byte order -/

/-- Message words are little-endian (R33). -/
def Obligations.MessageWordsAreLittleEndian : Prop :=
  ∀ (s : State) (k : Nat), k < 16 →
    (s.msgWord k).toNat = (s.byteAt (4 * k)).toNat + 2 ^ 8 * (s.byteAt (4 * k + 1)).toNat +
      2 ^ 16 * (s.byteAt (4 * k + 2)).toNat + 2 ^ 24 * (s.byteAt (4 * k + 3)).toNat

/-- The digest layout (R34): the DIGEST response carries 16 bytes, `dg[4j+m] = H[j][8m+7:8m]`, in order A, B, C, D. -/
def Obligations.DigestLayout : Prop :=
  ∀ a b c d : Word, (Response.digest a b c d).bytes = 0x01 :: digestBytes a b c d ∧ (digestBytes a b c d).length = 16 ∧
    ∀ j m, j < 4 → m < 4 →
      (digestBytes a b c d)[4 * j + m]? = some (([a, b, c, d].getD j 0).extractLsb' (8 * m) 8)

/-! ## Invariants and whole-machine properties -/

/-- The invariant of the states between commands holds right after reset: PHASE is UNINIT, CP is 0, RSP is empty and there are no
working registers (R20, R23, R200). R23 leaves BUF unspecified: that it lists nothing there is the model's form of "unspecified"
(notes/assumptions/1.md, 3.md), and that RSP without a response means a clear fault mark is R192 (notes/assumptions/5.md). -/
def Obligations.InvariantAtReset : Prop := Inv State.reset

/-- Every step keeps the invariant: BUF stays in its canonical form and lists exactly the pending bytes while READY and nothing
otherwise (R13, R21(a)), LEN counts whole bytes (R12), CP stays inside CMD (R17), and the fault mark says what the responses
say (R192). -/
def Obligations.EveryStepKeepsTheInvariant : Prop :=
  ∀ s t : State, Inv s → step s = .next t → Inv t

/-- R21 (a) to (d): INIT establishes them for the empty message, APPEND carries them from msg to msg ++ data. -/
def Obligations.AbsorbedMessageInvariant : Prop :=
  (∀ s : State, ∃ t, exec .init s = .next t ∧ Absorbed [] t) ∧
  ∀ (msg data : List Byte) (s : State), Absorbed msg s → s.work = none →
    ∃ t, exec (.append data) s = .next t ∧ Absorbed (msg ++ data) t

/-- FINISH of an engine that has absorbed a message answers that message's digest (R80). -/
def Obligations.FinishAnswersTheMessageDigest : Prop :=
  ∀ (msg : List Byte) (s : State), Absorbed msg s → s.work = none →
    ∃ t, exec .finish s = .next t ∧ t.RSP = s.RSP ++ 0x01 :: md5 msg

/-- What the three commands compute together (R80): in any state between commands, if the unread bytes begin with INIT, any
APPENDs and FINISH, the engine runs them all and answers OK, OK ..., DIGEST of the concatenated data. -/
def Obligations.StreamComputesTheMessageDigest : Prop :=
  ∀ (pieces : List (List Byte)) (rest : List Byte) (s : State), s.work = none → (∀ p ∈ pieces, p.length < 2 ^ 32) →
    s.unread = encodeAll (.init :: (pieces.map .append ++ [.finish])) ++ rest →
    ∃ t, runSteps (pieces.length + 2) s = .next t ∧ t.unread = rest ∧ t.PHASE = .finished ∧
      t.RSP = s.RSP ++ (List.replicate (pieces.length + 1) 0x00 ++ 0x01 :: md5 pieces.flatten)

/-- A run over a stream of commands is their execution one after another (R41, R54). -/
def Obligations.StreamRunExecutesItsCommands : Prop :=
  ∀ (commands : List Instr) (rest : List Byte) (s : State), s.work = none →
    (∀ i ∈ commands, WellFormed i = true ∧ isCommand i = true) → s.unread = encodeAll commands ++ rest →
    ∃ t, execAll commands s = .next t ∧ runSteps commands.length s = .next t ∧ t.unread = rest

/-- A well-formed sequence of commands raises no fault, and every other sequence of legal opcodes raises at least one (R202), from
any state between commands. -/
def Obligations.WellFormedStreamsRaiseNoFault : Prop :=
  ∀ (commands : List Instr) (s : State), s.work = none → s.faultMark = false →
    (∀ i ∈ commands, isCommand i = true) →
    ∃ t, execAll commands s = .next t ∧ (t.faultMark = false ↔ legalFrom s.PHASE commands = true)

/-- Non-interference of unspecified values (R16): two states that differ only in values the spec leaves unspecified take the
same step, with the same responses, into two such states, or stop alike. -/
def Obligations.UnspecifiedValuesAreUnobservable : Prop :=
  ∀ s t : State, SameButUnspecified s t → outcomesAgree (step s) (step t)

/-- Independence of engines (R189): under any schedule each engine ends where it would end stepping alone. -/
def Obligations.EnginesAreIndependent : Prop :=
  ∀ (schedule : List Nat) (sys sys' : List State) (k : Nat) (s : State), runSchedule schedule sys = some sys' →
    sys[k]? = some s →
    ∃ t, runSteps (schedule.count k) s = .next t ∧ sys'[k]? = some t
end

