-- ==== Sys2Proof/Laws/Bytes.lean ====
section
/-! SUPPORT. Bytes and words are inverse to each other (spec/00_scope.md rule R7: `word_le` is the inverse of `le32`). -/

namespace Sys2Proof.Machine

theorem wordLe_of_bytes (v : Word) :
    wordLe (v.extractLsb' 0 8) (v.extractLsb' 8 8) (v.extractLsb' 16 8) (v.extractLsb' 24 8) = v := by
  apply BitVec.eq_of_getLsbD_eq
  intro i hi
  simp only [wordLe, BitVec.getLsbD_append, BitVec.getLsbD_extractLsb']
  split
  · rw [decide_eq_true (by assumption)]; simp
  · split
    · rw [decide_eq_true (by assumption)]; simp only [Bool.true_and]; congr 1; omega
    · split
      · rw [decide_eq_true (by assumption)]; simp only [Bool.true_and]; congr 1; omega
      · rw [decide_eq_true (by omega)]; simp only [Bool.true_and]; congr 1; omega

theorem le32_wordLe (b0 b1 b2 b3 : Byte) : le32 (wordLe b0 b1 b2 b3) = [b0, b1, b2, b3] := by
  have h : ∀ (k : Nat) (b : Byte), (∀ j, j < 8 → (wordLe b0 b1 b2 b3).getLsbD (k + j) = b.getLsbD j) →
      (wordLe b0 b1 b2 b3).extractLsb' k 8 = b := by
    intro k b hb
    apply BitVec.eq_of_getLsbD_eq
    intro i hi
    rw [BitVec.getLsbD_extractLsb', hb i hi, decide_eq_true hi, Bool.true_and]
  simp only [le32]
  rw [h 0 b0, h 8 b1, h 16 b2, h 24 b3]
  all_goals
    intro j hj
    simp only [wordLe, BitVec.getLsbD_append]
  · rw [if_neg (by omega), if_neg (by omega), if_neg (by omega)]; congr 1; omega
  · rw [if_neg (by omega), if_neg (by omega), if_pos (by omega)]; congr 1; omega
  · rw [if_neg (by omega), if_pos (by omega)]; congr 1; omega
  · rw [if_pos (by omega)]; congr 1; omega

@[simp] theorem length_le32 (v : Word) : (le32 v).length = 4 := rfl

@[simp] theorem length_le64 (v : Len) : (le64 v).length = 8 := rfl

@[simp] theorem length_digestBytes (a b c d : Word) : (digestBytes a b c d).length = 16 := rfl

end Sys2Proof.Machine
end

