-- ==== Sys2Proof/Laws/State.lean ====
section
/-! SUPPORT. One lemma per field per update of State, so that no proof unfolds a record update. -/

namespace Sys2Proof.Machine

/-! ### setChain -/

@[simp] theorem State.setChain_A (a b c d : Word) (s : State) : (s.setChain a b c d).A = a := rfl
@[simp] theorem State.setChain_B (a b c d : Word) (s : State) : (s.setChain a b c d).B = b := rfl
@[simp] theorem State.setChain_C (a b c d : Word) (s : State) : (s.setChain a b c d).C = c := rfl
@[simp] theorem State.setChain_D (a b c d : Word) (s : State) : (s.setChain a b c d).D = d := rfl
@[simp] theorem State.setChain_LEN (a b c d : Word) (s : State) : (s.setChain a b c d).LEN = s.LEN := rfl
@[simp] theorem State.setChain_BUF (a b c d : Word) (s : State) : (s.setChain a b c d).BUF = s.BUF := rfl
@[simp] theorem State.setChain_PHASE (a b c d : Word) (s : State) : (s.setChain a b c d).PHASE = s.PHASE := rfl
@[simp] theorem State.setChain_CP (a b c d : Word) (s : State) : (s.setChain a b c d).CP = s.CP := rfl
@[simp] theorem State.setChain_CMD (a b c d : Word) (s : State) : (s.setChain a b c d).CMD = s.CMD := rfl
@[simp] theorem State.setChain_RSP (a b c d : Word) (s : State) : (s.setChain a b c d).RSP = s.RSP := rfl
@[simp] theorem State.setChain_work (a b c d : Word) (s : State) : (s.setChain a b c d).work = s.work := rfl
@[simp] theorem State.setChain_faultMark (a b c d : Word) (s : State) : (s.setChain a b c d).faultMark = s.faultMark := rfl
@[simp] theorem State.setChain_draws (a b c d : Word) (s : State) : (s.setChain a b c d).draws = s.draws := rfl

/-! ### setLen -/

@[simp] theorem State.setLen_A (v : Len) (s : State) : (s.setLen v).A = s.A := rfl
@[simp] theorem State.setLen_B (v : Len) (s : State) : (s.setLen v).B = s.B := rfl
@[simp] theorem State.setLen_C (v : Len) (s : State) : (s.setLen v).C = s.C := rfl
@[simp] theorem State.setLen_D (v : Len) (s : State) : (s.setLen v).D = s.D := rfl
@[simp] theorem State.setLen_LEN (v : Len) (s : State) : (s.setLen v).LEN = v := rfl
@[simp] theorem State.setLen_BUF (v : Len) (s : State) : (s.setLen v).BUF = s.BUF := rfl
@[simp] theorem State.setLen_PHASE (v : Len) (s : State) : (s.setLen v).PHASE = s.PHASE := rfl
@[simp] theorem State.setLen_CP (v : Len) (s : State) : (s.setLen v).CP = s.CP := rfl
@[simp] theorem State.setLen_CMD (v : Len) (s : State) : (s.setLen v).CMD = s.CMD := rfl
@[simp] theorem State.setLen_RSP (v : Len) (s : State) : (s.setLen v).RSP = s.RSP := rfl
@[simp] theorem State.setLen_work (v : Len) (s : State) : (s.setLen v).work = s.work := rfl
@[simp] theorem State.setLen_faultMark (v : Len) (s : State) : (s.setLen v).faultMark = s.faultMark := rfl
@[simp] theorem State.setLen_draws (v : Len) (s : State) : (s.setLen v).draws = s.draws := rfl

/-! ### setBuf -/

@[simp] theorem State.setBuf_A (m : Memory) (s : State) : (s.setBuf m).A = s.A := rfl
@[simp] theorem State.setBuf_B (m : Memory) (s : State) : (s.setBuf m).B = s.B := rfl
@[simp] theorem State.setBuf_C (m : Memory) (s : State) : (s.setBuf m).C = s.C := rfl
@[simp] theorem State.setBuf_D (m : Memory) (s : State) : (s.setBuf m).D = s.D := rfl
@[simp] theorem State.setBuf_LEN (m : Memory) (s : State) : (s.setBuf m).LEN = s.LEN := rfl
@[simp] theorem State.setBuf_BUF (m : Memory) (s : State) : (s.setBuf m).BUF = m := rfl
@[simp] theorem State.setBuf_PHASE (m : Memory) (s : State) : (s.setBuf m).PHASE = s.PHASE := rfl
@[simp] theorem State.setBuf_CP (m : Memory) (s : State) : (s.setBuf m).CP = s.CP := rfl
@[simp] theorem State.setBuf_CMD (m : Memory) (s : State) : (s.setBuf m).CMD = s.CMD := rfl
@[simp] theorem State.setBuf_RSP (m : Memory) (s : State) : (s.setBuf m).RSP = s.RSP := rfl
@[simp] theorem State.setBuf_work (m : Memory) (s : State) : (s.setBuf m).work = s.work := rfl
@[simp] theorem State.setBuf_faultMark (m : Memory) (s : State) : (s.setBuf m).faultMark = s.faultMark := rfl
@[simp] theorem State.setBuf_draws (m : Memory) (s : State) : (s.setBuf m).draws = s.draws := rfl

/-! ### setPhase -/

@[simp] theorem State.setPhase_A (p : Phase) (s : State) : (s.setPhase p).A = s.A := rfl
@[simp] theorem State.setPhase_B (p : Phase) (s : State) : (s.setPhase p).B = s.B := rfl
@[simp] theorem State.setPhase_C (p : Phase) (s : State) : (s.setPhase p).C = s.C := rfl
@[simp] theorem State.setPhase_D (p : Phase) (s : State) : (s.setPhase p).D = s.D := rfl
@[simp] theorem State.setPhase_LEN (p : Phase) (s : State) : (s.setPhase p).LEN = s.LEN := rfl
@[simp] theorem State.setPhase_BUF (p : Phase) (s : State) : (s.setPhase p).BUF = s.BUF := rfl
@[simp] theorem State.setPhase_PHASE (p : Phase) (s : State) : (s.setPhase p).PHASE = p := rfl
@[simp] theorem State.setPhase_CP (p : Phase) (s : State) : (s.setPhase p).CP = s.CP := rfl
@[simp] theorem State.setPhase_CMD (p : Phase) (s : State) : (s.setPhase p).CMD = s.CMD := rfl
@[simp] theorem State.setPhase_RSP (p : Phase) (s : State) : (s.setPhase p).RSP = s.RSP := rfl
@[simp] theorem State.setPhase_work (p : Phase) (s : State) : (s.setPhase p).work = s.work := rfl
@[simp] theorem State.setPhase_faultMark (p : Phase) (s : State) : (s.setPhase p).faultMark = s.faultMark := rfl
@[simp] theorem State.setPhase_draws (p : Phase) (s : State) : (s.setPhase p).draws = s.draws := rfl

/-! ### setWork -/

@[simp] theorem State.setWork_A (w : Option Work) (s : State) : (s.setWork w).A = s.A := rfl
@[simp] theorem State.setWork_B (w : Option Work) (s : State) : (s.setWork w).B = s.B := rfl
@[simp] theorem State.setWork_C (w : Option Work) (s : State) : (s.setWork w).C = s.C := rfl
@[simp] theorem State.setWork_D (w : Option Work) (s : State) : (s.setWork w).D = s.D := rfl
@[simp] theorem State.setWork_LEN (w : Option Work) (s : State) : (s.setWork w).LEN = s.LEN := rfl
@[simp] theorem State.setWork_BUF (w : Option Work) (s : State) : (s.setWork w).BUF = s.BUF := rfl
@[simp] theorem State.setWork_PHASE (w : Option Work) (s : State) : (s.setWork w).PHASE = s.PHASE := rfl
@[simp] theorem State.setWork_CP (w : Option Work) (s : State) : (s.setWork w).CP = s.CP := rfl
@[simp] theorem State.setWork_CMD (w : Option Work) (s : State) : (s.setWork w).CMD = s.CMD := rfl
@[simp] theorem State.setWork_RSP (w : Option Work) (s : State) : (s.setWork w).RSP = s.RSP := rfl
@[simp] theorem State.setWork_work (w : Option Work) (s : State) : (s.setWork w).work = w := rfl
@[simp] theorem State.setWork_faultMark (w : Option Work) (s : State) : (s.setWork w).faultMark = s.faultMark := rfl
@[simp] theorem State.setWork_draws (w : Option Work) (s : State) : (s.setWork w).draws = s.draws := rfl

/-! ### advance -/

@[simp] theorem State.advance_A (n : Nat) (s : State) : (s.advance n).A = s.A := rfl
@[simp] theorem State.advance_B (n : Nat) (s : State) : (s.advance n).B = s.B := rfl
@[simp] theorem State.advance_C (n : Nat) (s : State) : (s.advance n).C = s.C := rfl
@[simp] theorem State.advance_D (n : Nat) (s : State) : (s.advance n).D = s.D := rfl
@[simp] theorem State.advance_LEN (n : Nat) (s : State) : (s.advance n).LEN = s.LEN := rfl
@[simp] theorem State.advance_BUF (n : Nat) (s : State) : (s.advance n).BUF = s.BUF := rfl
@[simp] theorem State.advance_PHASE (n : Nat) (s : State) : (s.advance n).PHASE = s.PHASE := rfl
@[simp] theorem State.advance_CP (n : Nat) (s : State) : (s.advance n).CP = s.CP + n := rfl
@[simp] theorem State.advance_CMD (n : Nat) (s : State) : (s.advance n).CMD = s.CMD := rfl
@[simp] theorem State.advance_RSP (n : Nat) (s : State) : (s.advance n).RSP = s.RSP := rfl
@[simp] theorem State.advance_work (n : Nat) (s : State) : (s.advance n).work = s.work := rfl
@[simp] theorem State.advance_faultMark (n : Nat) (s : State) : (s.advance n).faultMark = s.faultMark := rfl
@[simp] theorem State.advance_draws (n : Nat) (s : State) : (s.advance n).draws = s.draws := rfl

/-! ### markFault -/

@[simp] theorem State.markFault_A (s : State) : (s.markFault).A = s.A := rfl
@[simp] theorem State.markFault_B (s : State) : (s.markFault).B = s.B := rfl
@[simp] theorem State.markFault_C (s : State) : (s.markFault).C = s.C := rfl
@[simp] theorem State.markFault_D (s : State) : (s.markFault).D = s.D := rfl
@[simp] theorem State.markFault_LEN (s : State) : (s.markFault).LEN = s.LEN := rfl
@[simp] theorem State.markFault_BUF (s : State) : (s.markFault).BUF = s.BUF := rfl
@[simp] theorem State.markFault_PHASE (s : State) : (s.markFault).PHASE = s.PHASE := rfl
@[simp] theorem State.markFault_CP (s : State) : (s.markFault).CP = s.CP := rfl
@[simp] theorem State.markFault_CMD (s : State) : (s.markFault).CMD = s.CMD := rfl
@[simp] theorem State.markFault_RSP (s : State) : (s.markFault).RSP = s.RSP := rfl
@[simp] theorem State.markFault_work (s : State) : (s.markFault).work = s.work := rfl
@[simp] theorem State.markFault_faultMark (s : State) : (s.markFault).faultMark = true := rfl
@[simp] theorem State.markFault_draws (s : State) : (s.markFault).draws = s.draws := rfl

/-! ### draw -/

@[simp] theorem State.draw_A (s : State) : (s.draw).A = s.A := rfl
@[simp] theorem State.draw_B (s : State) : (s.draw).B = s.B := rfl
@[simp] theorem State.draw_C (s : State) : (s.draw).C = s.C := rfl
@[simp] theorem State.draw_D (s : State) : (s.draw).D = s.D := rfl
@[simp] theorem State.draw_LEN (s : State) : (s.draw).LEN = s.LEN := rfl
@[simp] theorem State.draw_BUF (s : State) : (s.draw).BUF = s.BUF := rfl
@[simp] theorem State.draw_PHASE (s : State) : (s.draw).PHASE = s.PHASE := rfl
@[simp] theorem State.draw_CP (s : State) : (s.draw).CP = s.CP := rfl
@[simp] theorem State.draw_CMD (s : State) : (s.draw).CMD = s.CMD := rfl
@[simp] theorem State.draw_RSP (s : State) : (s.draw).RSP = s.RSP := rfl
@[simp] theorem State.draw_work (s : State) : (s.draw).work = s.work := rfl
@[simp] theorem State.draw_faultMark (s : State) : (s.draw).faultMark = s.faultMark := rfl
@[simp] theorem State.draw_draws (s : State) : (s.draw).draws = s.draws + 1 := rfl

/-! ### respond -/

@[simp] theorem State.respond_A (r : Response) (s : State) : (s.respond r).A = s.A := rfl
@[simp] theorem State.respond_B (r : Response) (s : State) : (s.respond r).B = s.B := rfl
@[simp] theorem State.respond_C (r : Response) (s : State) : (s.respond r).C = s.C := rfl
@[simp] theorem State.respond_D (r : Response) (s : State) : (s.respond r).D = s.D := rfl
@[simp] theorem State.respond_LEN (r : Response) (s : State) : (s.respond r).LEN = s.LEN := rfl
@[simp] theorem State.respond_BUF (r : Response) (s : State) : (s.respond r).BUF = s.BUF := rfl
@[simp] theorem State.respond_PHASE (r : Response) (s : State) : (s.respond r).PHASE = s.PHASE := rfl
@[simp] theorem State.respond_CP (r : Response) (s : State) : (s.respond r).CP = s.CP := rfl
@[simp] theorem State.respond_CMD (r : Response) (s : State) : (s.respond r).CMD = s.CMD := rfl
@[simp] theorem State.respond_RSP (r : Response) (s : State) : (s.respond r).RSP = s.RSP ++ r.bytes := rfl
@[simp] theorem State.respond_work (r : Response) (s : State) : (s.respond r).work = s.work := rfl
@[simp] theorem State.respond_faultMark (r : Response) (s : State) : (s.respond r).faultMark = s.faultMark := rfl
@[simp] theorem State.respond_draws (r : Response) (s : State) : (s.respond r).draws = s.draws := rfl

/-! ### hostSend -/

@[simp] theorem State.hostSend_A (bytes : List Byte) (s : State) : (s.hostSend bytes).A = s.A := rfl
@[simp] theorem State.hostSend_B (bytes : List Byte) (s : State) : (s.hostSend bytes).B = s.B := rfl
@[simp] theorem State.hostSend_C (bytes : List Byte) (s : State) : (s.hostSend bytes).C = s.C := rfl
@[simp] theorem State.hostSend_D (bytes : List Byte) (s : State) : (s.hostSend bytes).D = s.D := rfl
@[simp] theorem State.hostSend_LEN (bytes : List Byte) (s : State) : (s.hostSend bytes).LEN = s.LEN := rfl
@[simp] theorem State.hostSend_BUF (bytes : List Byte) (s : State) : (s.hostSend bytes).BUF = s.BUF := rfl
@[simp] theorem State.hostSend_PHASE (bytes : List Byte) (s : State) : (s.hostSend bytes).PHASE = s.PHASE := rfl
@[simp] theorem State.hostSend_CP (bytes : List Byte) (s : State) : (s.hostSend bytes).CP = s.CP := rfl
@[simp] theorem State.hostSend_CMD (bytes : List Byte) (s : State) : (s.hostSend bytes).CMD = s.CMD ++ bytes := rfl
@[simp] theorem State.hostSend_RSP (bytes : List Byte) (s : State) : (s.hostSend bytes).RSP = s.RSP := rfl
@[simp] theorem State.hostSend_work (bytes : List Byte) (s : State) : (s.hostSend bytes).work = s.work := rfl
@[simp] theorem State.hostSend_faultMark (bytes : List Byte) (s : State) : (s.hostSend bytes).faultMark = s.faultMark := rfl
@[simp] theorem State.hostSend_draws (bytes : List Byte) (s : State) : (s.hostSend bytes).draws = s.draws := rfl

/-! ### writeByte -/

@[simp] theorem State.writeByte_A (a : Nat) (v : Byte) (s : State) : (s.writeByte a v).A = s.A := rfl
@[simp] theorem State.writeByte_B (a : Nat) (v : Byte) (s : State) : (s.writeByte a v).B = s.B := rfl
@[simp] theorem State.writeByte_C (a : Nat) (v : Byte) (s : State) : (s.writeByte a v).C = s.C := rfl
@[simp] theorem State.writeByte_D (a : Nat) (v : Byte) (s : State) : (s.writeByte a v).D = s.D := rfl
@[simp] theorem State.writeByte_LEN (a : Nat) (v : Byte) (s : State) : (s.writeByte a v).LEN = s.LEN := rfl
@[simp] theorem State.writeByte_BUF (a : Nat) (v : Byte) (s : State) : (s.writeByte a v).BUF = s.BUF.write a v := rfl
@[simp] theorem State.writeByte_PHASE (a : Nat) (v : Byte) (s : State) : (s.writeByte a v).PHASE = s.PHASE := rfl
@[simp] theorem State.writeByte_CP (a : Nat) (v : Byte) (s : State) : (s.writeByte a v).CP = s.CP := rfl
@[simp] theorem State.writeByte_CMD (a : Nat) (v : Byte) (s : State) : (s.writeByte a v).CMD = s.CMD := rfl
@[simp] theorem State.writeByte_RSP (a : Nat) (v : Byte) (s : State) : (s.writeByte a v).RSP = s.RSP := rfl
@[simp] theorem State.writeByte_work (a : Nat) (v : Byte) (s : State) : (s.writeByte a v).work = s.work := rfl
@[simp] theorem State.writeByte_faultMark (a : Nat) (v : Byte) (s : State) : (s.writeByte a v).faultMark = s.faultMark := rfl
@[simp] theorem State.writeByte_draws (a : Nat) (v : Byte) (s : State) : (s.writeByte a v).draws = s.draws := rfl

/-! ### forgetBuf -/

@[simp] theorem State.forgetBuf_A (s : State) : (s.forgetBuf).A = s.A := rfl
@[simp] theorem State.forgetBuf_B (s : State) : (s.forgetBuf).B = s.B := rfl
@[simp] theorem State.forgetBuf_C (s : State) : (s.forgetBuf).C = s.C := rfl
@[simp] theorem State.forgetBuf_D (s : State) : (s.forgetBuf).D = s.D := rfl
@[simp] theorem State.forgetBuf_LEN (s : State) : (s.forgetBuf).LEN = s.LEN := rfl
@[simp] theorem State.forgetBuf_BUF (s : State) : (s.forgetBuf).BUF = [] := rfl
@[simp] theorem State.forgetBuf_PHASE (s : State) : (s.forgetBuf).PHASE = s.PHASE := rfl
@[simp] theorem State.forgetBuf_CP (s : State) : (s.forgetBuf).CP = s.CP := rfl
@[simp] theorem State.forgetBuf_CMD (s : State) : (s.forgetBuf).CMD = s.CMD := rfl
@[simp] theorem State.forgetBuf_RSP (s : State) : (s.forgetBuf).RSP = s.RSP := rfl
@[simp] theorem State.forgetBuf_work (s : State) : (s.forgetBuf).work = s.work := rfl
@[simp] theorem State.forgetBuf_faultMark (s : State) : (s.forgetBuf).faultMark = s.faultMark := rfl
@[simp] theorem State.forgetBuf_draws (s : State) : (s.forgetBuf).draws = s.draws + 1 := rfl

/-! ### forgetBufFrom -/

@[simp] theorem State.forgetBufFrom_A (n : Nat) (s : State) : (s.forgetBufFrom n).A = s.A := rfl
@[simp] theorem State.forgetBufFrom_B (n : Nat) (s : State) : (s.forgetBufFrom n).B = s.B := rfl
@[simp] theorem State.forgetBufFrom_C (n : Nat) (s : State) : (s.forgetBufFrom n).C = s.C := rfl
@[simp] theorem State.forgetBufFrom_D (n : Nat) (s : State) : (s.forgetBufFrom n).D = s.D := rfl
@[simp] theorem State.forgetBufFrom_LEN (n : Nat) (s : State) : (s.forgetBufFrom n).LEN = s.LEN := rfl
@[simp] theorem State.forgetBufFrom_BUF (n : Nat) (s : State) : (s.forgetBufFrom n).BUF = (List.range n).map (fun j => (j, s.byteAt j)) := rfl
@[simp] theorem State.forgetBufFrom_PHASE (n : Nat) (s : State) : (s.forgetBufFrom n).PHASE = s.PHASE := rfl
@[simp] theorem State.forgetBufFrom_CP (n : Nat) (s : State) : (s.forgetBufFrom n).CP = s.CP := rfl
@[simp] theorem State.forgetBufFrom_CMD (n : Nat) (s : State) : (s.forgetBufFrom n).CMD = s.CMD := rfl
@[simp] theorem State.forgetBufFrom_RSP (n : Nat) (s : State) : (s.forgetBufFrom n).RSP = s.RSP := rfl
@[simp] theorem State.forgetBufFrom_work (n : Nat) (s : State) : (s.forgetBufFrom n).work = s.work := rfl
@[simp] theorem State.forgetBufFrom_faultMark (n : Nat) (s : State) : (s.forgetBufFrom n).faultMark = s.faultMark := rfl
@[simp] theorem State.forgetBufFrom_draws (n : Nat) (s : State) : (s.forgetBufFrom n).draws = s.draws + 1 := rfl

/-! ### forgetAll -/

@[simp] theorem State.forgetAll_A (s : State) : (s.forgetAll).A = Config.postFinishWord s.draws 0 := rfl
@[simp] theorem State.forgetAll_B (s : State) : (s.forgetAll).B = Config.postFinishWord s.draws 1 := rfl
@[simp] theorem State.forgetAll_C (s : State) : (s.forgetAll).C = Config.postFinishWord s.draws 2 := rfl
@[simp] theorem State.forgetAll_D (s : State) : (s.forgetAll).D = Config.postFinishWord s.draws 3 := rfl
@[simp] theorem State.forgetAll_LEN (s : State) : (s.forgetAll).LEN = Config.postFinishLen s.draws := rfl
@[simp] theorem State.forgetAll_BUF (s : State) : (s.forgetAll).BUF = [] := rfl
@[simp] theorem State.forgetAll_PHASE (s : State) : (s.forgetAll).PHASE = s.PHASE := rfl
@[simp] theorem State.forgetAll_CP (s : State) : (s.forgetAll).CP = s.CP := rfl
@[simp] theorem State.forgetAll_CMD (s : State) : (s.forgetAll).CMD = s.CMD := rfl
@[simp] theorem State.forgetAll_RSP (s : State) : (s.forgetAll).RSP = s.RSP := rfl
@[simp] theorem State.forgetAll_work (s : State) : (s.forgetAll).work = s.work := rfl
@[simp] theorem State.forgetAll_faultMark (s : State) : (s.forgetAll).faultMark = s.faultMark := rfl
@[simp] theorem State.forgetAll_draws (s : State) : (s.forgetAll).draws = s.draws + 1 := rfl

/-! ### raise -/

@[simp] theorem State.raise_A (cause : Cause) (m : Nat) (s : State) : (s.raise cause m).A = s.A := rfl
@[simp] theorem State.raise_B (cause : Cause) (m : Nat) (s : State) : (s.raise cause m).B = s.B := rfl
@[simp] theorem State.raise_C (cause : Cause) (m : Nat) (s : State) : (s.raise cause m).C = s.C := rfl
@[simp] theorem State.raise_D (cause : Cause) (m : Nat) (s : State) : (s.raise cause m).D = s.D := rfl
@[simp] theorem State.raise_LEN (cause : Cause) (m : Nat) (s : State) : (s.raise cause m).LEN = s.LEN := rfl
@[simp] theorem State.raise_BUF (cause : Cause) (m : Nat) (s : State) : (s.raise cause m).BUF = s.BUF := rfl
@[simp] theorem State.raise_PHASE (cause : Cause) (m : Nat) (s : State) : (s.raise cause m).PHASE = s.PHASE := rfl
@[simp] theorem State.raise_CP (cause : Cause) (m : Nat) (s : State) : (s.raise cause m).CP = s.CP + m := rfl
@[simp] theorem State.raise_CMD (cause : Cause) (m : Nat) (s : State) : (s.raise cause m).CMD = s.CMD := rfl
@[simp] theorem State.raise_RSP (cause : Cause) (m : Nat) (s : State) : (s.raise cause m).RSP = s.RSP ++ [0xE0 ||| cause.code] := rfl
@[simp] theorem State.raise_work (cause : Cause) (m : Nat) (s : State) : (s.raise cause m).work = s.work := rfl
@[simp] theorem State.raise_faultMark (cause : Cause) (m : Nat) (s : State) : (s.raise cause m).faultMark = true := rfl
@[simp] theorem State.raise_draws (cause : Cause) (m : Nat) (s : State) : (s.raise cause m).draws = s.draws := rfl

/-! ### beginCompress -/

@[simp] theorem State.beginCompress_A (i : BitVec 6) (s : State) : (s.beginCompress i).A = s.A := rfl
@[simp] theorem State.beginCompress_B (i : BitVec 6) (s : State) : (s.beginCompress i).B = s.B := rfl
@[simp] theorem State.beginCompress_C (i : BitVec 6) (s : State) : (s.beginCompress i).C = s.C := rfl
@[simp] theorem State.beginCompress_D (i : BitVec 6) (s : State) : (s.beginCompress i).D = s.D := rfl
@[simp] theorem State.beginCompress_LEN (i : BitVec 6) (s : State) : (s.beginCompress i).LEN = s.LEN := rfl
@[simp] theorem State.beginCompress_BUF (i : BitVec 6) (s : State) : (s.beginCompress i).BUF = s.BUF := rfl
@[simp] theorem State.beginCompress_PHASE (i : BitVec 6) (s : State) : (s.beginCompress i).PHASE = s.PHASE := rfl
@[simp] theorem State.beginCompress_CP (i : BitVec 6) (s : State) : (s.beginCompress i).CP = s.CP := rfl
@[simp] theorem State.beginCompress_CMD (i : BitVec 6) (s : State) : (s.beginCompress i).CMD = s.CMD := rfl
@[simp] theorem State.beginCompress_RSP (i : BitVec 6) (s : State) : (s.beginCompress i).RSP = s.RSP := rfl
@[simp] theorem State.beginCompress_work (i : BitVec 6) (s : State) : (s.beginCompress i).work = some ⟨s.A, s.B, s.C, s.D, i⟩ := rfl
@[simp] theorem State.beginCompress_faultMark (i : BitVec 6) (s : State) : (s.beginCompress i).faultMark = s.faultMark := rfl
@[simp] theorem State.beginCompress_draws (i : BitVec 6) (s : State) : (s.beginCompress i).draws = s.draws := rfl

/-! ### writeBytes: every field but BUF -/

@[simp] theorem State.writeBytes_A (a : Nat) (vs : List Byte) (s : State) : (s.writeBytes a vs).A = s.A := by
  induction vs generalizing a s with
  | nil => rfl
  | cons v vs ih => exact ih (a + 1) (s.writeByte a v)
@[simp] theorem State.writeBytes_B (a : Nat) (vs : List Byte) (s : State) : (s.writeBytes a vs).B = s.B := by
  induction vs generalizing a s with
  | nil => rfl
  | cons v vs ih => exact ih (a + 1) (s.writeByte a v)
@[simp] theorem State.writeBytes_C (a : Nat) (vs : List Byte) (s : State) : (s.writeBytes a vs).C = s.C := by
  induction vs generalizing a s with
  | nil => rfl
  | cons v vs ih => exact ih (a + 1) (s.writeByte a v)
@[simp] theorem State.writeBytes_D (a : Nat) (vs : List Byte) (s : State) : (s.writeBytes a vs).D = s.D := by
  induction vs generalizing a s with
  | nil => rfl
  | cons v vs ih => exact ih (a + 1) (s.writeByte a v)
@[simp] theorem State.writeBytes_LEN (a : Nat) (vs : List Byte) (s : State) : (s.writeBytes a vs).LEN = s.LEN := by
  induction vs generalizing a s with
  | nil => rfl
  | cons v vs ih => exact ih (a + 1) (s.writeByte a v)
@[simp] theorem State.writeBytes_PHASE (a : Nat) (vs : List Byte) (s : State) : (s.writeBytes a vs).PHASE = s.PHASE := by
  induction vs generalizing a s with
  | nil => rfl
  | cons v vs ih => exact ih (a + 1) (s.writeByte a v)
@[simp] theorem State.writeBytes_CP (a : Nat) (vs : List Byte) (s : State) : (s.writeBytes a vs).CP = s.CP := by
  induction vs generalizing a s with
  | nil => rfl
  | cons v vs ih => exact ih (a + 1) (s.writeByte a v)
@[simp] theorem State.writeBytes_CMD (a : Nat) (vs : List Byte) (s : State) : (s.writeBytes a vs).CMD = s.CMD := by
  induction vs generalizing a s with
  | nil => rfl
  | cons v vs ih => exact ih (a + 1) (s.writeByte a v)
@[simp] theorem State.writeBytes_RSP (a : Nat) (vs : List Byte) (s : State) : (s.writeBytes a vs).RSP = s.RSP := by
  induction vs generalizing a s with
  | nil => rfl
  | cons v vs ih => exact ih (a + 1) (s.writeByte a v)
@[simp] theorem State.writeBytes_work (a : Nat) (vs : List Byte) (s : State) : (s.writeBytes a vs).work = s.work := by
  induction vs generalizing a s with
  | nil => rfl
  | cons v vs ih => exact ih (a + 1) (s.writeByte a v)
@[simp] theorem State.writeBytes_faultMark (a : Nat) (vs : List Byte) (s : State) : (s.writeBytes a vs).faultMark = s.faultMark := by
  induction vs generalizing a s with
  | nil => rfl
  | cons v vs ih => exact ih (a + 1) (s.writeByte a v)
@[simp] theorem State.writeBytes_draws (a : Nat) (vs : List Byte) (s : State) : (s.writeBytes a vs).draws = s.draws := by
  induction vs generalizing a s with
  | nil => rfl
  | cons v vs ih => exact ih (a + 1) (s.writeByte a v)

end Sys2Proof.Machine
end

