-- ==== Sys2Proof/Laws/Memory.lean ====
section
/-! SUPPORT. What the operations over BUF can do: the canonical form is kept, a store is read back, every other offset is left
alone, and the form in which a command reads BUF (`pendingBytes`, `block`). -/

namespace Sys2Proof.Machine

theorem Memory.read_write (m : Memory) (a b : Nat) (v : Byte) :
    (m.write a v).read b = if a = b then some v else m.read b := by
  induction m with
  | nil => rfl
  | cons c m ih =>
    obtain ⟨x, w⟩ := c
    simp only [Memory.write]
    split
    · rfl
    · split
      · rename_i h1 h2
        subst h2
        simp only [Memory.read]
        split <;> rfl
      · rename_i h1 h2
        simp only [Memory.read, ih]
        split
        · rename_i h3
          rw [if_neg (by omega)]
        · rfl

theorem Memory.mem_write {m : Memory} {a : Nat} {v : Byte} {c : Host.Cell} (h : c ∈ m.write a v) :
    c = (a, v) ∨ c ∈ m := by
  induction m with
  | nil => simpa [Memory.write] using h
  | cons d m ih =>
    obtain ⟨x, w⟩ := d
    simp only [Memory.write] at h
    split at h
    · simpa using h
    · split at h
      · rcases List.mem_cons.mp h with h | h
        · exact .inl h
        · exact .inr (List.mem_cons_of_mem _ h)
      · rcases List.mem_cons.mp h with h | h
        · exact .inr (h ▸ List.mem_cons_self)
        · rcases ih h with h | h
          · exact .inl h
          · exact .inr (List.mem_cons_of_mem _ h)

/-- A store inside BUF keeps the canonical form. -/
theorem Memory.wf_write {m : Memory} (a : Nat) (v : Byte) (ha : a < 64) (h : m.wf) : (m.write a v).wf := by
  refine ⟨?_, ?_⟩
  · have hp := h.1
    clear h
    induction m with
    | nil => simp [Memory.write]
    | cons d m ih =>
      obtain ⟨x, w⟩ := d
      rw [List.pairwise_cons] at hp
      simp only [Memory.write]
      split
      · rename_i h1
        refine List.pairwise_cons.mpr ⟨?_, List.pairwise_cons.mpr hp⟩
        intro c hc
        rcases List.mem_cons.mp hc with hc | hc
        · subst hc; exact h1
        · exact Nat.lt_trans h1 (hp.1 c hc)
      · split
        · rename_i h1 h2
          subst h2
          exact List.pairwise_cons.mpr hp
        · rename_i h1 h2
          refine List.pairwise_cons.mpr ⟨?_, ih hp.2⟩
          intro c hc
          rcases Memory.mem_write hc with hc | hc
          · subst hc; simp only; omega
          · exact hp.1 c hc
  · intro c hc
    rcases Memory.mem_write hc with hc | hc
    · subst hc; exact ha
    · exact h.2 c hc

theorem Memory.wf_nil : Memory.wf [] := by decide

theorem Memory.read_range_map (f : Nat → Byte) (n a : Nat) :
    Memory.read ((List.range n).map (fun j => (j, f j))) a = if a < n then some (f a) else none := by
  induction n with
  | zero => rfl
  | succ n ih =>
    have happ : ∀ (m : Memory) (x : Nat) (v : Byte), (m ++ [(x, v)]).read a = (m.read a).or (if x = a then some v else none) := by
      intro m x v
      induction m with
      | nil => simp [Memory.read]
      | cons c m ihm =>
        simp only [List.cons_append, Memory.read, ihm]
        split <;> rfl
    rw [List.range_succ, List.map_append, List.map_cons, List.map_nil, happ, ih]
    by_cases h : a < n
    · simp [h, Nat.lt_succ_of_lt h]
    · by_cases h' : n = a
      · subst h'; simp
      · rw [if_neg h, if_neg h', if_neg (show ¬ a < n + 1 by omega)]; rfl

/-- What APPEND leaves in BUF is in canonical form. -/
theorem Memory.wf_range_map (f : Nat → Byte) {n : Nat} (hn : n ≤ 64) : Memory.wf ((List.range n).map (fun j => (j, f j))) := by
  refine ⟨List.pairwise_map.mpr List.pairwise_lt_range, fun c hc => ?_⟩
  obtain ⟨j, hj, rfl⟩ := List.mem_map.mp hc
  exact Nat.lt_of_lt_of_le (List.mem_range.mp hj) hn

/-! ### Bytes of the state -/

@[simp] theorem State.byteAt_writeByte (s : State) (a b : Nat) (v : Byte) :
    (s.writeByte a v).byteAt b = if a = b then v else s.byteAt b := by
  simp only [State.byteAt, State.writeByte_BUF, State.writeByte_draws, Memory.read_write]
  split <;> rfl

theorem State.byteAt_writeBytes (vs : List Byte) (s : State) (a b : Nat) :
    (s.writeBytes a vs).byteAt b = if h : a ≤ b ∧ b < a + vs.length then vs[b - a]'(by omega) else s.byteAt b := by
  induction vs generalizing a s with
  | nil => simp only [State.writeBytes, List.length_nil]; rw [dif_neg (by omega)]
  | cons v vs ih =>
    simp only [State.writeBytes, ih, State.byteAt_writeByte, List.length_cons]
    by_cases h1 : a = b
    · subst h1
      rw [dif_neg (by omega), if_pos rfl, dif_pos (by omega)]
      simp
    · by_cases h2 : a + 1 ≤ b ∧ b < a + 1 + vs.length
      · rw [dif_pos h2, dif_pos (by omega)]
        obtain ⟨k, hk⟩ : ∃ k, b - a = k + 1 := ⟨b - a - 1, by omega⟩
        have : b - (a + 1) = k := by omega
        simp only [hk, this, List.getElem_cons_succ]
      · rw [dif_neg h2, if_neg h1, dif_neg (by omega)]

/-- The bytes below n survive, whatever was specified before. -/
theorem State.byteAt_forgetBufFrom (s : State) {n a : Nat} (h : a < n) : (s.forgetBufFrom n).byteAt a = s.byteAt a := by
  rw [State.byteAt, State.forgetBufFrom_BUF, Memory.read_range_map, if_pos h]
  rfl

theorem State.byteAt_congr {s t : State} (hb : s.BUF = t.BUF) (hd : s.draws = t.draws) (a : Nat) :
    s.byteAt a = t.byteAt a := by
  simp only [State.byteAt, hb, hd]

@[simp] theorem State.length_block (s : State) : s.block.length = 64 := by simp [State.block]

@[simp] theorem State.length_pendingBytes (s : State) : s.pendingBytes.length = s.pending := by
  simp [State.pendingBytes]

theorem State.pending_lt (s : State) : s.pending < 64 := (s.LEN.extractLsb' 3 6).isLt

/-- Storing bytes that end at offset `a + vs.length` extends a known run of bytes that ends at a. -/
theorem State.range_writeBytes (s : State) (a : Nat) (vs : List Byte) :
    (List.range (a + vs.length)).map (s.writeBytes a vs).byteAt = (List.range a).map s.byteAt ++ vs := by
  apply List.ext_getElem
  · simp
  · intro j h1 h2
    simp only [List.getElem_map, List.getElem_range, State.byteAt_writeBytes, List.getElem_append, List.length_map,
      List.length_range]
    by_cases h : j < a
    · rw [dif_neg (by omega), dif_pos h]
    · simp only [List.length_map, List.length_range] at h1
      rw [dif_pos (by omega), dif_neg h]

theorem Memory.wf_writeBytes (vs : List Byte) (s : State) (a : Nat) (ha : a + vs.length ≤ 64) (h : s.BUF.wf) :
    (s.writeBytes a vs).BUF.wf := by
  induction vs generalizing a s with
  | nil => exact h
  | cons v vs ih =>
    simp only [List.length_cons] at ha
    exact ih (s.writeByte a v) (a + 1) (by omega) (Memory.wf_write a v (by omega) h)

end Sys2Proof.Machine
end

