-- ==== Sys2Proof/Laws/Compress.lean ====
section
/-! SUPPORT. What a step and COMPRESS can do: the step an index selects is R97 over the tables, and COMPRESS always ends in a
next state that differs in A to D (the reference's value) and has no working registers. -/

namespace Sys2Proof.Machine

@[simp] theorem andThen_next (s : State) (f : State → Result) : andThen (.next s) f = f s := rfl

/-- Inversion: a sequence answers next only through next. -/
theorem andThen_eq_next {r : Result} {f : State → Result} {t : State} (h : andThen r f = .next t) :
    ∃ s, r = .next s ∧ f s = .next t := by
  cases r with
  | next s => exact ⟨s, rfl, h⟩
  | fault e => cases h
  | refused e => cases h

/-- What a step does, by its own constants. -/
theorem stepOp_next (f : Word → Word → Word → Word) (k r : Nat) (T : Word) {s : State} {w : Work} (h : s.work = some w) :
    stepOp f k r T s = .next (s.setWork (some (w.mix f (s.msgWord k) r T))) := by
  simp only [stepOp, h]

/-- Outside a COMPRESS no step has its registers. -/
theorem stepOp_refused (f : Word → Word → Word → Word) (k r : Nat) (T : Word) {s : State} (h : s.work = none) :
    stepOp f k r T s = .refused .stepOutsideCompress := by
  simp only [stepOp, h]

/-- The meaning an index selects is the shared step at that index's table entries. -/
theorem stepMeaning_eq_stepOp (i : BitVec 6) :
    stepMeaning i = stepOp (refFun i.toNat) (tableK i.toNat) (tableS i.toNat) (tableT i.toNat) := by
  obtain ⟨n⟩ := i
  change Fin 64 at n
  fin_cases n <;> rfl

theorem tableK_lt (i : Nat) : tableK i < 16 := by
  unfold tableK
  split <;> exact Nat.mod_lt _ (by omega)

/-- A message word read from the state is the same word of the block's bytes. -/
theorem State.msgWord_eq_refWord (s : State) {k : Nat} (hk : k < 16) : s.msgWord k = refWord s.block k := by
  have h : ∀ j, j < 64 → s.block.getD j 0 = s.byteAt j := by
    intro j hj
    simp [State.block, List.getD_eq_getElem?_getD, hj]
  simp only [State.msgWord, refWord]
  rw [h _ (by omega), h _ (by omega), h _ (by omega), h _ (by omega)]

@[simp] theorem State.block_setWork (w : Option Work) (s : State) : (s.setWork w).block = s.block := rfl

@[simp] theorem State.msgWord_setWork (w : Option Work) (s : State) (k : Nat) : (s.setWork w).msgWord k = s.msgWord k := rfl

/-- The working registers as a chaining value. -/
def Work.chain (w : Work) : Chain := ⟨w.a, w.b, w.c, w.d⟩

theorem Work.chain_mix (s : State) (w : Work) (i : Nat) :
    (w.mix (refFun i) (s.msgWord (tableK i)) (tableS i) (tableT i)).chain = refStep s.block i w.chain := by
  simp only [Work.mix, Work.chain, refStep, refSum, s.msgWord_eq_refWord (tableK_lt i)]

/-- The add-back at the end of the loop. -/
def State.addBack (w : Chain) (s : State) : State :=
  (s.setChain (s.A + w.a) (s.B + w.b) (s.C + w.c) (s.D + w.d)).setWork none

/-- The working registers after a turn that is not the last. -/
def Work.turn (s : State) (w : Work) : Work :=
  { w.mix (refFun w.i.toNat) (s.msgWord (tableK w.i.toNat)) (tableS w.i.toNat) (tableT w.i.toNat) with i := w.i + 1 }

theorem Work.chain_turn (s : State) (w : Work) : (w.turn s).chain = refStep s.block w.i.toNat w.chain :=
  Work.chain_mix s w w.i.toNat

/-- A turn of the loop before the last. -/
theorem compressTurn_next (s : State) (w : Work) (h : w.i ≠ 63) :
    compressTurn (s.setWork (some w)) = .next (s.setWork (some (w.turn s))) := by
  have hmi : (w.mix (refFun w.i.toNat) (s.msgWord (tableK w.i.toNat)) (tableS w.i.toNat) (tableT w.i.toNat)).i ≠ 63 := h
  simp only [compressTurn, State.setWork_work, stepMeaning_eq_stepOp, stepOp_next _ _ _ _ (State.setWork_work (some w) s),
    andThen_next, afterStep, State.msgWord_setWork, if_neg hmi]
  rfl

/-- The last turn adds the working registers back and ends. -/
theorem compressTurn_last (s : State) (w : Work) (h : w.i = 63) :
    compressTurn (s.setWork (some w)) = .next (s.addBack (refStep s.block 63 w.chain)) := by
  have hi : w.i.toNat = 63 := by rw [h]; rfl
  have hmi : (w.mix (refFun 63) (s.msgWord (tableK 63)) (tableS 63) (tableT 63)).i = 63 := h
  simp only [compressTurn, State.setWork_work, stepMeaning_eq_stepOp, stepOp_next _ _ _ _ (State.setWork_work (some w) s),
    andThen_next, afterStep, State.msgWord_setWork, hi, if_pos hmi, ← Work.chain_mix]
  rfl

/-- The turns from index 63 - n on are the reference's last n + 1 steps and the add-back. -/
theorem compressTurns_next (n : Nat) (hn : n < 64) (s : State) (w : Work) (hi : w.i.toNat = 63 - n) :
    compressTurns (n + 1) (s.setWork (some w)) = .next (s.addBack (refSteps s.block (63 - n) (n + 1) w.chain)) := by
  induction n generalizing w with
  | zero =>
    have h63 : w.i = 63 := BitVec.eq_of_toNat_eq (by simpa using hi)
    simp only [compressTurns, compressTurn_last s w h63, andThen_next, refSteps, Nat.sub_zero]
  | succ n ih =>
    have h63 : w.i ≠ 63 := by
      intro h
      have h' : w.i.toNat = 63 := by rw [h]; rfl
      omega
    have hi' : (w.turn s).i.toNat = 63 - n := by
      have h1 : (w.turn s).i.toNat = (w.i.toNat + 1) % 64 := BitVec.toNat_add w.i 1
      omega
    have hidx : 63 - (n + 1) + 1 = 63 - n := by omega
    rw [compressTurns, compressTurn_next s w h63, andThen_next, ih (by omega) _ hi', Work.chain_turn, hi,
      refSteps.eq_def s.block (63 - (n + 1)) (n + 1 + 1)]
    simp only [hidx]

/-- COMPRESS (R98): always a next state; A to D are the reference's value of the block in BUF, the working registers are
gone, and nothing else changes. -/
theorem compress_next (s : State) :
    compress s = .next ((s.setChain (refCompress s.chain s.block).a (refCompress s.chain s.block).b
      (refCompress s.chain s.block).c (refCompress s.chain s.block).d).setWork none) := by
  have h := compressTurns_next 63 (by omega) s ⟨s.A, s.B, s.C, s.D, 0⟩ rfl
  simp only [compress, State.beginCompress]
  rw [h]
  rfl

end Sys2Proof.Machine
end

