-- ==== Sys2Proof/Laws/Absorb.lean ====
section
/-! SUPPORT. What APPEND's byte loop and FINISH's padding can do, said once: both always answer next, the accumulators are the
reference's fold over whole blocks, and every other register is left alone. -/

namespace Sys2Proof.Machine

/-! ### The reference's fold over blocks -/

theorem refBlocks_cons (q : Nat) (h : Chain) {blk : List Byte} (rest : List Byte) (hb : blk.length = 64) :
    refBlocks (q + 1) h (blk ++ rest) = refBlocks q (refCompress h blk) rest := by
  rw [refBlocks, List.take_left' hb, List.drop_left' hb]

theorem refBlocks_add (p q : Nat) (h : Chain) (bytes : List Byte) :
    refBlocks (p + q) h bytes = refBlocks q (refBlocks p h bytes) (bytes.drop (64 * p)) := by
  induction p generalizing h bytes with
  | zero => simp [refBlocks]
  | succ p ih =>
    rw [Nat.add_right_comm, refBlocks, ih, refBlocks, List.drop_drop]
    congr 2
    omega

/-- The fold over q blocks reads only the first 64q bytes. -/
theorem refBlocks_append (q : Nat) (h : Chain) (bytes more : List Byte) (hq : 64 * q ≤ bytes.length) :
    refBlocks q h (bytes ++ more) = refBlocks q h bytes := by
  induction q generalizing h bytes with
  | zero => rfl
  | succ q ih =>
    rw [refBlocks, refBlocks, List.take_append_of_le_length (by omega), List.drop_append_of_le_length (by omega),
      ih _ _ (by rw [List.length_drop]; omega)]

theorem drop_block (q : Nat) {blk : List Byte} (rest : List Byte) (hb : blk.length = 64) :
    (blk ++ rest).drop (64 * (q + 1)) = rest.drop (64 * q) := by
  rw [Nat.mul_succ, Nat.add_comm, ← List.drop_drop, List.drop_left' hb]

/-! ### What stays -/

/-- Everything but A to D, BUF and the working registers is unchanged. -/
structure SameControl (s t : State) : Prop where
  len : t.LEN = s.LEN
  phase : t.PHASE = s.PHASE
  cp : t.CP = s.CP
  cmd : t.CMD = s.CMD
  rsp : t.RSP = s.RSP
  mark : t.faultMark = s.faultMark
  draws : t.draws = s.draws

theorem SameControl.refl (s : State) : SameControl s s := ⟨rfl, rfl, rfl, rfl, rfl, rfl, rfl⟩

theorem SameControl.trans {s t u : State} (h : SameControl s t) (k : SameControl t u) : SameControl s u :=
  ⟨k.len.trans h.len, k.phase.trans h.phase, k.cp.trans h.cp, k.cmd.trans h.cmd, k.rsp.trans h.rsp, k.mark.trans h.mark,
    k.draws.trans h.draws⟩

theorem SameControl.writeBytes (s : State) (a : Nat) (vs : List Byte) : SameControl s (s.writeBytes a vs) := by
  constructor <;> simp

/-- COMPRESS in the words the command laws use. -/
theorem compress_spec (s : State) : ∃ t, compress s = .next t ∧ t.chain = refCompress s.chain s.block ∧ t.BUF = s.BUF ∧
    t.work = none ∧ SameControl s t := by
  obtain ⟨r, hr⟩ : ∃ r, refCompress s.chain s.block = r := ⟨_, rfl⟩
  have h := compress_next s
  rw [hr] at h ⊢
  exact ⟨_, h, rfl, rfl, rfl, ⟨rfl, rfl, rfl, rfl, rfl, rfl, rfl⟩⟩

/-! ### The byte loop of APPEND -/

/-- The loop at pending count n over the stream `pending bytes ++ data`: as many COMPRESS as there are whole blocks, the rest
stays in BUF from offset 0 on. -/
theorem absorb_spec (data : List Byte) (n : Nat) (s : State) (hn : n < 64) (hw : s.work = none) :
    ∃ t, absorb data n s = .next t ∧
      t.chain = refBlocks ((n + data.length) / 64) s.chain ((List.range n).map s.byteAt ++ data) ∧
      (List.range ((n + data.length) % 64)).map t.byteAt =
        ((List.range n).map s.byteAt ++ data).drop (64 * ((n + data.length) / 64)) ∧
      t.work = none ∧ SameControl s t := by
  induction data generalizing n s with
  | nil =>
    refine ⟨s, rfl, ?_, ?_, hw, .refl s⟩
    · simp [Nat.div_eq_of_lt hn, refBlocks]
    · simp [Nat.div_eq_of_lt hn, Nat.mod_eq_of_lt hn]
  | cons v data ih =>
    have hrange : (List.range (n + 1)).map (s.writeByte n v).byteAt = (List.range n).map s.byteAt ++ [v] :=
      s.range_writeBytes n [v]
    have hstream : (List.range n).map s.byteAt ++ v :: data = ((List.range n).map s.byteAt ++ [v]) ++ data := by simp
    rw [absorb]
    split
    · rename_i h64
      obtain ⟨u, hu, hchain, -, hwork, hsame⟩ := compress_spec (s.writeByte n v)
      have hblock : (s.writeByte n v).block = (List.range n).map s.byteAt ++ [v] := by
        rw [State.block, ← h64, hrange]
      have hlen : ((List.range n).map s.byteAt ++ [v]).length = 64 := by simp [h64]
      obtain ⟨t, ht, h1, h2, h3, h4⟩ := ih 0 u (by omega) hwork
      have hdiv : (n + (v :: data).length) / 64 = (0 + data.length) / 64 + 1 := by
        simp only [List.length_cons]; omega
      have hmod : (n + (v :: data).length) % 64 = (0 + data.length) % 64 := by
        simp only [List.length_cons]; omega
      refine ⟨t, by rw [hu, andThen_next, ht], ?_, ?_, h3, ?_⟩
      · rw [h1, hchain, hblock, hdiv, hstream, refBlocks_cons _ _ _ hlen]
        rfl
      · rw [hmod, h2, hdiv, hstream, drop_block _ _ hlen]
        rfl
      · exact (SameControl.writeBytes s n [v]).trans (hsame.trans h4)
    · rename_i h64
      obtain ⟨t, ht, h1, h2, h3, h4⟩ := ih (n + 1) (s.writeByte n v) (by omega) hw
      have hlen : n + 1 + data.length = n + (v :: data).length := by simp only [List.length_cons]; omega
      rw [hlen, hrange, ← hstream] at h1 h2
      exact ⟨t, ht, h1, h2, h3, (SameControl.writeBytes s n [v]).trans h4⟩

/-! ### The padding of FINISH -/

theorem State.writeBytes_append (s : State) (a : Nat) (vs ws : List Byte) :
    (s.writeBytes a vs).writeBytes (a + vs.length) ws = s.writeBytes a (vs ++ ws) := by
  induction vs generalizing a s with
  | nil => rfl
  | cons v vs ih =>
    have h : a + (v :: vs).length = a + 1 + vs.length := by simp only [List.length_cons]; omega
    rw [h]
    exact ih (s.writeByte a v) (a + 1)

/-- Steps 1 to 4 of FINISH: the fold over the pending bytes and the padding, in one or two blocks. -/
theorem finishBlocks_spec (n : Nat) (L0 : Len) (s : State) (hn : n < 64) :
    ∃ t, finishBlocks n L0 s = .next t ∧
      t.chain = refBlocks ((n + padlen n + 8) / 64) s.chain ((List.range n).map s.byteAt ++ padding n L0) ∧
      t.work = none ∧ SameControl s t := by
  unfold finishBlocks
  split
  · rename_i h55
    have hpad : padding n L0 = [0x80] ++ List.replicate (55 - n) 0x00 ++ le64 L0 := by
      simp only [padding, padlen, if_pos h55, List.cons_append, List.nil_append]
      rw [show 56 - n - 1 = 55 - n by omega]
    have hw : ((s.writeBytes n [0x80]).writeBytes (n + 1) (List.replicate (55 - n) 0x00)).writeBytes 56 (le64 L0) =
        s.writeBytes n (padding n L0) := by
      have h1 := s.writeBytes_append n [0x80] (List.replicate (55 - n) 0x00)
      have h2 := s.writeBytes_append n ([0x80] ++ List.replicate (55 - n) 0x00) (le64 L0)
      have h56 : n + ([0x80] ++ List.replicate (55 - n) (0x00 : Byte)).length = 56 := by simp; omega
      rw [h56] at h2
      rw [hpad, ← h2, ← h1]
      rfl
    have hlen : n + (padding n L0).length = 64 := by rw [hpad]; simp [length_le64]; omega
    have hblock : (s.writeBytes n (padding n L0)).block = (List.range n).map s.byteAt ++ padding n L0 := by
      rw [State.block, ← hlen, State.range_writeBytes]
    obtain ⟨t, ht, hc, hb, hk, hs⟩ := compress_spec (s.writeBytes n (padding n L0))
    refine ⟨t, by rw [hw, ht], ?_, hk, (SameControl.writeBytes s n _).trans hs⟩
    have hq : (n + padlen n + 8) / 64 = 0 + 1 := by simp only [padlen, if_pos h55]; omega
    have h64 : ((List.range n).map s.byteAt ++ padding n L0).length = 64 := by simp [hlen]
    have hstart : (s.writeBytes n (padding n L0)).chain = s.chain := by simp [State.chain]
    rw [hc, hblock, hq, hstart]
    have := refBlocks_cons 0 s.chain [] h64
    rw [List.append_nil] at this
    rw [this]
    rfl
  · rename_i h55
    have hw : (s.writeBytes n [0x80]).writeBytes (n + 1) (List.replicate (63 - n) 0x00) =
        s.writeBytes n ([0x80] ++ List.replicate (63 - n) 0x00) := s.writeBytes_append n [0x80] _
    obtain ⟨u, hu, huc, -, -, hus⟩ := compress_spec (s.writeBytes n ([0x80] ++ List.replicate (63 - n) 0x00))
    have hlen1 : n + ([0x80] ++ List.replicate (63 - n) (0x00 : Byte)).length = 64 := by simp; omega
    have hblock1 : (s.writeBytes n ([0x80] ++ List.replicate (63 - n) 0x00)).block =
        (List.range n).map s.byteAt ++ ([0x80] ++ List.replicate (63 - n) 0x00) := by
      rw [State.block, ← State.range_writeBytes, hlen1]
    have hw2 : (u.writeBytes 0 (List.replicate 56 0x00)).writeBytes 56 (le64 L0) =
        u.writeBytes 0 (List.replicate 56 0x00 ++ le64 L0) := by
      have := u.writeBytes_append 0 (List.replicate 56 0x00) (le64 L0)
      rwa [List.length_replicate] at this
    obtain ⟨t, ht, htc, -, htk, hts⟩ := compress_spec (u.writeBytes 0 (List.replicate 56 0x00 ++ le64 L0))
    have hblock2 : (u.writeBytes 0 (List.replicate 56 0x00 ++ le64 L0)).block = List.replicate 56 0x00 ++ le64 L0 := by
      have := u.range_writeBytes 0 (List.replicate 56 0x00 ++ le64 L0)
      simp only [List.length_append, List.length_replicate, length_le64, List.range_zero, List.map_nil, List.nil_append] at this
      exact this
    refine ⟨t, by rw [hw, hu, andThen_next, hw2, ht], ?_, htk,
      (SameControl.writeBytes s n _).trans (hus.trans ((SameControl.writeBytes u 0 _).trans hts))⟩
    have hpad : (List.range n).map s.byteAt ++ padding n L0 =
        ((List.range n).map s.byteAt ++ ([0x80] ++ List.replicate (63 - n) 0x00)) ++
          ((List.replicate 56 0x00 ++ le64 L0) ++ []) := by
      simp only [padding, padlen, if_neg h55, List.append_nil, List.append_assoc, List.cons_append, List.nil_append]
      rw [show 120 - n - 1 = (63 - n) + 56 by omega, List.replicate_add, List.append_assoc]
    have hq : (n + padlen n + 8) / 64 = 0 + 1 + 1 := by simp only [padlen, if_neg h55]; omega
    have h64 : ((List.range n).map s.byteAt ++ ([0x80] ++ List.replicate (63 - n) 0x00)).length = 64 := by
      rw [List.length_append, List.length_map, List.length_range]
      exact hlen1
    have hstart : (s.writeBytes n ([0x80] ++ List.replicate (63 - n) 0x00)).chain = s.chain := by simp [State.chain]
    have hstart2 : (u.writeBytes 0 (List.replicate 56 0x00 ++ le64 L0)).chain = u.chain := by simp [State.chain]
    rw [htc, hblock2, hstart2, huc, hblock1, hstart, hq, hpad, refBlocks_cons _ _ _ h64,
      refBlocks_cons _ _ _ (by simp [length_le64])]
    rfl

end Sys2Proof.Machine
end

