-- ==== Sys2Proof/Laws/Step.lean ====
section
/-! SUPPORT. What one step can do, said once, and what the phase test at the head of a command can do. -/

namespace Sys2Proof.Machine

/-- The index of the step selects the same meaning through exec as through the loop of COMPRESS. -/
theorem exec_decodeStep (i : BitVec 6) (s : State) : exec (decodeStep i) s = stepMeaning i s := by
  obtain ⟨n⟩ := i
  change Fin 64 at n
  fin_cases n <;> rfl

/-- Inside a COMPRESS one step is one turn of its loop. -/
theorem step_inside {s : State} {w : Work} (h : s.work = some w) : step s = compressTurn s := by
  simp only [step, compressTurn, h, exec_decodeStep]

/-- Inversion of a step between commands: it decoded a command and executed it. -/
theorem step_between {s t : State} (hw : s.work = none) (h : step s = .next t) :
    ∃ i len, decode s.unread = .command i len ∧ exec i s = .next t := by
  simp only [step, hw] at h
  cases hd : decode s.unread with
  | idle => rw [hd] at h; cases h
  | held => rw [hd] at h; cases h
  | command i len => rw [hd] at h; exact ⟨i, len, rfl, h⟩

/-- Inversion of the phase test: the body's answer while READY, else a fault entry. -/
theorem whenReady_next {m : Nat} {s t : State} {body : Result} (h : whenReady m s body = .next t) :
    (s.PHASE = .ready ∧ body = .next t) ∨ (s.PHASE = .uninit ∧ t = s.raise .notInitialized m) ∨
      (s.PHASE = .finished ∧ t = s.raise .alreadyFinished m) := by
  unfold whenReady at h
  split at h
  · rename_i hp; cases h; exact .inr (.inl ⟨hp, rfl⟩)
  · rename_i hp; cases h; exact .inr (.inr ⟨hp, rfl⟩)
  · rename_i hp; exact .inl ⟨hp, h⟩

theorem core_run_of_next (M : Host.Core) {n : Nat} {s t : M.State} (h : M.step s = .next t) : M.run (n + 1) s = M.run n t := by
  simp only [Host.Core.run, h]

theorem core_run_of_fault (M : Host.Core) {n : Nat} {s : M.State} {e : M.Fault} (h : M.step s = .fault e) :
    M.run (n + 1) s = .fault e := by
  simp only [Host.Core.run, h]

theorem core_run_of_refused (M : Host.Core) {n : Nat} {s : M.State} {e : M.Refusal} (h : M.step s = .refused e) :
    M.run (n + 1) s = .refused e := by
  simp only [Host.Core.run, h]

/-- The engine's own runs are the host interface's. -/
theorem runSteps_eq_core_run (n : Nat) (s : State) : runSteps n s = Sys2Proof.core.run n s := by
  induction n generalizing s with
  | zero => rfl
  | succ n ih =>
    simp only [runSteps]
    cases h : step s with
    | next t => exact (ih t).trans (core_run_of_next Sys2Proof.core h).symm
    | fault e => exact (core_run_of_fault Sys2Proof.core h).symm
    | refused e => exact (core_run_of_refused Sys2Proof.core h).symm

/-- After reset BUF is in its canonical form. -/
theorem reset_buf_wf : State.reset.BUF.wf := by decide

end Sys2Proof.Machine
end

