-- ==== Sys2Proof/Tests/Slice0.lean ====
section
/-! SUPPORT. The model's own tests: ill-formed terms, words written out from the spec's encodings, one-step tests whose expected
values are the spec's worked examples (spec/95_test_vectors.md, the examples of spec/41_compression.md), and for every
statement with hypotheses a witness that meets them all. -/

set_option maxRecDepth 20000

namespace Sys2Proof.Tests

open Sys2Proof Sys2Proof.Machine

/-! ## WellFormed: one ill-formed term per check -/

theorem test_illegal_of_init_opcode_is_ill_formed : WellFormed (.illegal 0x01) = false := by decide
theorem test_illegal_of_append_opcode_is_ill_formed : WellFormed (.illegal 0x02) = false := by decide
theorem test_illegal_of_finish_opcode_is_ill_formed : WellFormed (.illegal 0x03) = false := by decide
theorem test_append_of_2_32_bytes_is_ill_formed (data : List Byte) (h : data.length = 2 ^ 32) :
    WellFormed (.append data) = false := by
  simp only [WellFormed, h, Nat.lt_irrefl, decide_false]
theorem test_append_of_2_32_less_1_bytes_is_well_formed (data : List Byte) (h : data.length = 2 ^ 32 - 1) :
    WellFormed (.append data) = true := by
  simp only [WellFormed, h]
  decide

/-! ## Decode: words from R53, R59 and the streams of 95_test_vectors.md section 5 -/

theorem test_decode_init : decode [0x01] = .command .init 1 := by decide
theorem test_decode_finish : decode [0x03, 0x03] = .command .finish 1 := by decide
/-- V5.7: `02 01 00 00 00 41` is APPEND "A". -/
theorem test_decode_append_A : decode [0x02, 0x01, 0x00, 0x00, 0x00, 0x41] = .command (.append [0x41]) 6 := by decide
/-- R50: the four length bytes are little-endian, so `02 00 01 00 00` announces 256 bytes. -/
theorem test_decode_append_length_is_little_endian :
    decode (0x02 :: 0x00 :: 0x01 :: 0x00 :: 0x00 :: List.replicate 256 0x61) = .command (.append (List.replicate 256 0x61)) 261 := by
  decide
/-- V5.10. -/
theorem test_decode_held_payload : decode [0x02, 0x05, 0x00, 0x00, 0x00, 0x61, 0x62] = .held := by decide
/-- V5.11. -/
theorem test_decode_held_header : decode [0x02] = .held := by decide
/-- V5.8, V5.9 and the decoder's corner cases. -/
theorem test_decode_reserved : decode [0x00] = .command (.illegal 0x00) 1 ∧ decode [0xFF, 0x01] = .command (.illegal 0xFF) 1 ∧
    decode [0x04] = .command (.illegal 0x04) 1 ∧ decode [0x7F] = .command (.illegal 0x7F) 1 ∧
    decode [0xE1] = .command (.illegal 0xE1) 1 := by decide
theorem test_decode_idle : decode [] = .idle := by decide
/-- R61: bits 5:4 are the round, bits 3:0 the position; 10 0101 is round 3, j = 5, STEP 37. -/
theorem test_decode_step_index : decodeStep 0b000000 = .step0 ∧ decodeStep 0b010000 = .step16 ∧
    decodeStep 0b100101 = .step37 ∧ decodeStep 0b111111 = .step63 := by decide
theorem test_encode_append : commandBytes (.append [0x61, 0x62, 0x63]) = [0x02, 0x03, 0x00, 0x00, 0x00, 0x61, 0x62, 0x63] := by decide
/-- P1's command stream, from the text form. -/
theorem test_assemble_P1 : assemble [.init, .append (.text ['a', 'b', 'c']), .finish] =
    [0x01, 0x02, 0x03, 0x00, 0x00, 0x00, 0x61, 0x62, 0x63, 0x03] := by decide

theorem test_read_text_line : readLine ['A', 'P', 'P', 'E', 'N', 'D', ' ', quoteChar, 'a', escapeChar, quoteChar, ';', quoteChar, ' ', ';', ' ', '!'] =
    some [.append (.text ['a', quoteChar, ';'])] := by decide
theorem test_read_hex_line : readLine ['A', 'P', 'P', 'E', 'N', 'D', ' ', 'x', quoteChar, '3', '0', ' ', 'f', 'F', quoteChar] =
    some [.append (.hex [0x30, 0xFF])] := by decide
theorem test_read_fill_line : readLine ['D', 'I', 'G', 'E', 'S', 'T', ' ', 'x', quoteChar, '6', '1', quoteChar, '*', '5', '6'] =
    some [.digest (.fill 0x61 56)] := by decide
theorem test_read_refuses_a_lone_digit : readLine ['.', 'b', 'y', 't', 'e', ' ', '7'] = none := by decide
/-- P1 of 95_test_vectors.md section 7 as a text. -/
theorem test_assemble_text_P1 : assembleText (['I', 'N', 'I', 'T', Char.ofNat 10] ++
    ['A', 'P', 'P', 'E', 'N', 'D', ' ', quoteChar, 'a', 'b', 'c', quoteChar, Char.ofNat 10] ++ ['F', 'I', 'N', 'I', 'S', 'H']) =
    some [0x01, 0x02, 0x03, 0x00, 0x00, 0x00, 0x61, 0x62, 0x63, 0x03] := by decide

/-! ## Primitive vectors (95_test_vectors.md section 2) -/

theorem test_round_functions : roundF 0xefcdab89 0x98badcfe 0x10325476 = 0x98badcfe ∧
    roundG 0xefcdab89 0x98badcfe 0x10325476 = 0x88888888 ∧ roundH 0xefcdab89 0x98badcfe 0x10325476 = 0x67452301 ∧
    roundI 0xefcdab89 0x98badcfe 0x10325476 = 0x77777777 := by decide
theorem test_rotl32 : rotl32 0x80000000 7 = 0x00000040 ∧ rotl32 0x00000001 23 = 0x00800000 := by decide
theorem test_byte_order : wordLe 0x61 0x62 0x63 0x80 = 0x80636261 ∧ le32 0xd98c1dd4 = [0xd4, 0x1d, 0x8c, 0xd9] ∧
    le64 0x18 = [0x18, 0, 0, 0, 0, 0, 0, 0] := by decide
theorem test_padlen : [0, 1, 54, 55, 56, 57, 62, 63].map padlen = [56, 55, 2, 1, 64, 63, 58, 57] := by decide

/-! ## The steps: the example of each of R100 to R163, one step each -/

/-- A state inside the COMPRESS of the empty message's padding block (V3.1), with the given working registers. -/
def insideEmpty (i : BitVec 6) (w : List Word) : State :=
  { State.reset with
    BUF := (0, 0x80) :: (List.range 63).map (fun j => (j + 1, 0x00))
    work := some ⟨w.getD 0 0, w.getD 1 0, w.getD 2 0, w.getD 3 0, i⟩ }

/-- The working registers after executing the step with the given index. -/
def workAfter (i : BitVec 6) (w : List Word) : List Word :=
  match exec (decodeStep i) (insideEmpty i w) with
  | .next t =>
    match t.work with
    | some v => [v.a, v.b, v.c, v.d]
    | none => []
  | .fault _ => []
  | .refused _ => []

/-- R100 to R115. -/
theorem test_steps_of_round_1 :
    workAfter 0 [0x67452301, 0xefcdab89, 0x98badcfe, 0x10325476] = [0x10325476, 0xa5202774, 0xefcdab89, 0x98badcfe] ∧
    workAfter 1 [0x10325476, 0xa5202774, 0xefcdab89, 0x98badcfe] = [0x98badcfe, 0xf59592dd, 0xa5202774, 0xefcdab89] ∧
    workAfter 2 [0x98badcfe, 0xf59592dd, 0xa5202774, 0xefcdab89] = [0xefcdab89, 0xe7f06b23, 0xf59592dd, 0xa5202774] ∧
    workAfter 3 [0xefcdab89, 0xe7f06b23, 0xf59592dd, 0xa5202774] = [0xa5202774, 0x1b163203, 0xe7f06b23, 0xf59592dd] ∧
    workAfter 4 [0xa5202774, 0x1b163203, 0xe7f06b23, 0xf59592dd] = [0xf59592dd, 0x32033344, 0x1b163203, 0xe7f06b23] ∧
    workAfter 5 [0xf59592dd, 0x32033344, 0x1b163203, 0xe7f06b23] = [0xe7f06b23, 0x2f35d494, 0x32033344, 0x1b163203] ∧
    workAfter 6 [0xe7f06b23, 0x2f35d494, 0x32033344, 0x1b163203] = [0x1b163203, 0xf5b158db, 0x2f35d494, 0x32033344] ∧
    workAfter 7 [0x1b163203, 0xf5b158db, 0x2f35d494, 0x32033344] = [0x32033344, 0x9bc13ce9, 0xf5b158db, 0x2f35d494] ∧
    workAfter 8 [0x32033344, 0x9bc13ce9, 0xf5b158db, 0x2f35d494] = [0x2f35d494, 0x3893b991, 0x9bc13ce9, 0xf5b158db] ∧
    workAfter 9 [0x2f35d494, 0x3893b991, 0x9bc13ce9, 0xf5b158db] = [0xf5b158db, 0xfce4a312, 0x3893b991, 0x9bc13ce9] ∧
    workAfter 10 [0xf5b158db, 0xfce4a312, 0x3893b991, 0x9bc13ce9] = [0x9bc13ce9, 0xe1ef0576, 0xfce4a312, 0x3893b991] ∧
    workAfter 11 [0x9bc13ce9, 0xe1ef0576, 0xfce4a312, 0x3893b991] = [0x3893b991, 0x70768a29, 0xe1ef0576, 0xfce4a312] ∧
    workAfter 12 [0x3893b991, 0x70768a29, 0xe1ef0576, 0xfce4a312] = [0xfce4a312, 0xf56c7cf1, 0x70768a29, 0xe1ef0576] ∧
    workAfter 13 [0xfce4a312, 0xf56c7cf1, 0x70768a29, 0xe1ef0576] = [0xe1ef0576, 0x374943a7, 0xf56c7cf1, 0x70768a29] ∧
    workAfter 14 [0xe1ef0576, 0x374943a7, 0xf56c7cf1, 0x70768a29] = [0x70768a29, 0x5aa53f75, 0x374943a7, 0xf56c7cf1] ∧
    workAfter 15 [0x70768a29, 0x5aa53f75, 0x374943a7, 0xf56c7cf1] = [0xf56c7cf1, 0xd6819c6a, 0x5aa53f75, 0x374943a7] := by decide

/-- R116 to R131. -/
theorem test_steps_of_round_2 :
    workAfter 16 [0xf56c7cf1, 0xd6819c6a, 0x5aa53f75, 0x374943a7] = [0x374943a7, 0x1c7d7513, 0xd6819c6a, 0x5aa53f75] ∧
    workAfter 17 [0x374943a7, 0x1c7d7513, 0xd6819c6a, 0x5aa53f75] = [0x5aa53f75, 0x7bd57a3a, 0x1c7d7513, 0xd6819c6a] ∧
    workAfter 18 [0x5aa53f75, 0x7bd57a3a, 0x1c7d7513, 0xd6819c6a] = [0xd6819c6a, 0xc095f13a, 0x7bd57a3a, 0x1c7d7513] ∧
    workAfter 19 [0xd6819c6a, 0xc095f13a, 0x7bd57a3a, 0x1c7d7513] = [0x1c7d7513, 0xbd782e17, 0xc095f13a, 0x7bd57a3a] ∧
    workAfter 20 [0x1c7d7513, 0xbd782e17, 0xc095f13a, 0x7bd57a3a] = [0x7bd57a3a, 0x3d1e3e6c, 0xbd782e17, 0xc095f13a] ∧
    workAfter 21 [0x7bd57a3a, 0x3d1e3e6c, 0xbd782e17, 0xc095f13a] = [0xc095f13a, 0x68b7b3e3, 0x3d1e3e6c, 0xbd782e17] ∧
    workAfter 22 [0xc095f13a, 0x68b7b3e3, 0x3d1e3e6c, 0xbd782e17] = [0xbd782e17, 0xeb41643e, 0x68b7b3e3, 0x3d1e3e6c] ∧
    workAfter 23 [0xbd782e17, 0xeb41643e, 0x68b7b3e3, 0x3d1e3e6c] = [0x3d1e3e6c, 0xe422531a, 0xeb41643e, 0x68b7b3e3] ∧
    workAfter 24 [0x3d1e3e6c, 0xe422531a, 0xeb41643e, 0x68b7b3e3] = [0x68b7b3e3, 0x306ec122, 0xe422531a, 0xeb41643e] ∧
    workAfter 25 [0x68b7b3e3, 0x306ec122, 0xe422531a, 0xeb41643e] = [0xeb41643e, 0xd28c77c2, 0x306ec122, 0xe422531a] ∧
    workAfter 26 [0xeb41643e, 0xd28c77c2, 0x306ec122, 0xe422531a] = [0xe422531a, 0xa3c663da, 0xd28c77c2, 0x306ec122] ∧
    workAfter 27 [0xe422531a, 0xa3c663da, 0xd28c77c2, 0x306ec122] = [0x306ec122, 0xa0572807, 0xa3c663da, 0xd28c77c2] ∧
    workAfter 28 [0x306ec122, 0xa0572807, 0xa3c663da, 0xd28c77c2] = [0xd28c77c2, 0x13707036, 0xa0572807, 0xa3c663da] ∧
    workAfter 29 [0xd28c77c2, 0x13707036, 0xa0572807, 0xa3c663da] = [0xa3c663da, 0xae7813db, 0x13707036, 0xa0572807] ∧
    workAfter 30 [0xa3c663da, 0xae7813db, 0x13707036, 0xa0572807] = [0xa0572807, 0x1c31c384, 0xae7813db, 0x13707036] ∧
    workAfter 31 [0xa0572807, 0x1c31c384, 0xae7813db, 0x13707036] = [0x13707036, 0xa2205f1f, 0x1c31c384, 0xae7813db] := by decide

/-- R132 to R147. -/
theorem test_steps_of_round_3 :
    workAfter 32 [0x13707036, 0xa2205f1f, 0x1c31c384, 0xae7813db] = [0xae7813db, 0xdf63eaa1, 0xa2205f1f, 0x1c31c384] ∧
    workAfter 33 [0xae7813db, 0xdf63eaa1, 0xa2205f1f, 0x1c31c384] = [0x1c31c384, 0xc3689f5b, 0xdf63eaa1, 0xa2205f1f] ∧
    workAfter 34 [0x1c31c384, 0xc3689f5b, 0xdf63eaa1, 0xa2205f1f] = [0xa2205f1f, 0x12f3e755, 0xc3689f5b, 0xdf63eaa1] ∧
    workAfter 35 [0xa2205f1f, 0x12f3e755, 0xc3689f5b, 0xdf63eaa1] = [0xdf63eaa1, 0x004b6669, 0x12f3e755, 0xc3689f5b] ∧
    workAfter 36 [0xdf63eaa1, 0x004b6669, 0x12f3e755, 0xc3689f5b] = [0xc3689f5b, 0x5f7a9b2e, 0x004b6669, 0x12f3e755] ∧
    workAfter 37 [0xc3689f5b, 0x5f7a9b2e, 0x004b6669, 0x12f3e755] = [0x12f3e755, 0xabc34e16, 0x5f7a9b2e, 0x004b6669] ∧
    workAfter 38 [0x12f3e755, 0xabc34e16, 0x5f7a9b2e, 0x004b6669] = [0x004b6669, 0x91ca4cb7, 0xabc34e16, 0x5f7a9b2e] ∧
    workAfter 39 [0x004b6669, 0x91ca4cb7, 0xabc34e16, 0x5f7a9b2e] = [0x5f7a9b2e, 0xc5dc8c15, 0x91ca4cb7, 0xabc34e16] ∧
    workAfter 40 [0x5f7a9b2e, 0xc5dc8c15, 0x91ca4cb7, 0xabc34e16] = [0xabc34e16, 0x4497169d, 0xc5dc8c15, 0x91ca4cb7] ∧
    workAfter 41 [0xabc34e16, 0x4497169d, 0xc5dc8c15, 0x91ca4cb7] = [0x91ca4cb7, 0x76fd93d4, 0x4497169d, 0xc5dc8c15] ∧
    workAfter 42 [0x91ca4cb7, 0x76fd93d4, 0x4497169d, 0xc5dc8c15] = [0xc5dc8c15, 0xfd95f243, 0x76fd93d4, 0x4497169d] ∧
    workAfter 43 [0xc5dc8c15, 0xfd95f243, 0x76fd93d4, 0x4497169d] = [0x4497169d, 0x0fe32453, 0xfd95f243, 0x76fd93d4] ∧
    workAfter 44 [0x4497169d, 0x0fe32453, 0xfd95f243, 0x76fd93d4] = [0x76fd93d4, 0x3f55edfd, 0x0fe32453, 0xfd95f243] ∧
    workAfter 45 [0x76fd93d4, 0x3f55edfd, 0x0fe32453, 0xfd95f243] = [0xfd95f243, 0x22a31f54, 0x3f55edfd, 0x0fe32453] ∧
    workAfter 46 [0xfd95f243, 0x22a31f54, 0x3f55edfd, 0x0fe32453] = [0x0fe32453, 0x68d84ea2, 0x22a31f54, 0x3f55edfd] ∧
    workAfter 47 [0x0fe32453, 0x68d84ea2, 0x22a31f54, 0x3f55edfd] = [0x3f55edfd, 0xca7d2dbd, 0x68d84ea2, 0x22a31f54] := by decide

/-- R148 to R163. -/
theorem test_steps_of_round_4 :
    workAfter 48 [0x3f55edfd, 0xca7d2dbd, 0x68d84ea2, 0x22a31f54] = [0x22a31f54, 0x93aa2577, 0xca7d2dbd, 0x68d84ea2] ∧
    workAfter 49 [0x22a31f54, 0x93aa2577, 0xca7d2dbd, 0x68d84ea2] = [0x68d84ea2, 0x1688dc85, 0x93aa2577, 0xca7d2dbd] ∧
    workAfter 50 [0x68d84ea2, 0x1688dc85, 0x93aa2577, 0xca7d2dbd] = [0xca7d2dbd, 0xcd85b8cb, 0x1688dc85, 0x93aa2577] ∧
    workAfter 51 [0xca7d2dbd, 0xcd85b8cb, 0x1688dc85, 0x93aa2577] = [0x93aa2577, 0x561e0689, 0xcd85b8cb, 0x1688dc85] ∧
    workAfter 52 [0x93aa2577, 0x561e0689, 0xcd85b8cb, 0x1688dc85] = [0x1688dc85, 0x5625a114, 0x561e0689, 0xcd85b8cb] ∧
    workAfter 53 [0x1688dc85, 0x5625a114, 0x561e0689, 0xcd85b8cb] = [0xcd85b8cb, 0x3450f42b, 0x5625a114, 0x561e0689] ∧
    workAfter 54 [0xcd85b8cb, 0x3450f42b, 0x5625a114, 0x561e0689] = [0x561e0689, 0x392ad0d0, 0x3450f42b, 0x5625a114] ∧
    workAfter 55 [0x561e0689, 0x392ad0d0, 0x3450f42b, 0x5625a114] = [0x5625a114, 0x1e77fa61, 0x392ad0d0, 0x3450f42b] ∧
    workAfter 56 [0x5625a114, 0x1e77fa61, 0x392ad0d0, 0x3450f42b] = [0x3450f42b, 0x474a9c8c, 0x1e77fa61, 0x392ad0d0] ∧
    workAfter 57 [0x3450f42b, 0x474a9c8c, 0x1e77fa61, 0x392ad0d0] = [0x392ad0d0, 0xdfce00bc, 0x474a9c8c, 0x1e77fa61] ∧
    workAfter 58 [0x392ad0d0, 0xdfce00bc, 0x474a9c8c, 0x1e77fa61] = [0x1e77fa61, 0x36594b14, 0xdfce00bc, 0x474a9c8c] ∧
    workAfter 59 [0x1e77fa61, 0x36594b14, 0xdfce00bc, 0x474a9c8c] = [0x474a9c8c, 0x30130182, 0x36594b14, 0xdfce00bc] ∧
    workAfter 60 [0x474a9c8c, 0x30130182, 0x36594b14, 0xdfce00bc] = [0xdfce00bc, 0x7246fad3, 0x30130182, 0x36594b14] ∧
    workAfter 61 [0xdfce00bc, 0x7246fad3, 0x30130182, 0x36594b14] = [0x36594b14, 0x6e10a476, 0x7246fad3, 0x30130182] ∧
    workAfter 62 [0x36594b14, 0x6e10a476, 0x7246fad3, 0x30130182] = [0x30130182, 0xff4ea3eb, 0x6e10a476, 0x7246fad3] ∧
    workAfter 63 [0x30130182, 0xff4ea3eb, 0x6e10a476, 0x7246fad3] = [0x7246fad3, 0x14e45506, 0xff4ea3eb, 0x6e10a476] := by decide

/-! ## COMPRESS and the commands -/

/-- A state between commands with the given pending bytes, LEN in bytes and unread commands. -/
def ready (pending : List Byte) (len : Nat) (cmd : List Byte) : State :=
  { State.reset with
    A := 0x67452301, B := 0xefcdab89, C := 0x98badcfe, D := 0x10325476
    LEN := bitLength len
    BUF := (List.range pending.length).map (fun j => (j, pending.getD j 0))
    PHASE := .ready
    CMD := cmd }

/-- A state between commands in the given phase, from reset. -/
def inPhase (p : Phase) (cmd : List Byte) : State := { State.reset with PHASE := p, CMD := cmd }

/-- The accumulators of an outcome. -/
def accumulators : Result → List Word
  | .next t => [t.A, t.B, t.C, t.D]
  | .fault _ => []
  | .refused _ => []

/-- The response stream of an outcome. -/
def responses : Result → List Byte
  | .next t => t.RSP
  | .fault _ => [0xAA]
  | .refused _ => [0xBB]

/-- V3.3, fourth row: bytes 30 31 .. 6f. -/
theorem test_compress_counting_block :
    accumulators (compress (ready ((List.range 64).map (fun j => BitVec.ofNat 8 (0x30 + j))) 0 [])) =
      [0xc2087d54, 0x79862e51, 0xb1a51a73, 0xb3082fbd] := by decide

/-- R70's example: from reset, `01` gives the four constants and RSP = 00. -/
theorem test_init_from_reset : accumulators (step (inPhase .uninit [0x01])) = [0x67452301, 0xefcdab89, 0x98badcfe, 0x10325476] ∧
    responses (step (inPhase .uninit [0x01])) = [0x00] := by decide

/-- R71's example: APPEND "abc" while LEN = 0. -/
theorem test_append_abc : match step (ready [] 0 [0x02, 0x03, 0x00, 0x00, 0x00, 0x61, 0x62, 0x63]) with
    | .next t => t.BUF = [(0, 0x61), (1, 0x62), (2, 0x63)] ∧ t.LEN = 0x18 ∧ t.A = 0x67452301 ∧ t.RSP = [0x00] ∧ t.CP = 8
    | .fault _ => False
    | .refused _ => False := by
  refine ⟨?_, ?_, ?_, ?_, ?_⟩ <;> decide

/-- V4.4: LEN wraps to 0, the byte fills the block of zeros. -/
theorem test_append_wraps_LEN : accumulators (exec (.append [0x00])
      { ready (List.replicate 63 0x00) 0 [] with LEN := 0xfffffffffffffff8 }) =
        [0x031f1dac, 0x6ea58ed0, 0x1fab67b7, 0x74317791] ∧
    (match exec (.append [0x00]) { ready (List.replicate 63 0x00) 0 [] with LEN := 0xfffffffffffffff8 } with
      | .next t => t.LEN | .fault _ => 1 | .refused _ => 1) = 0 := by decide

/-- S3: the digest of "abc". -/
theorem test_finish_abc : responses (exec .finish (ready [0x61, 0x62, 0x63] 3 [])) =
    [0x01, 0x90, 0x01, 0x50, 0x98, 0x3c, 0xd2, 0x4f, 0xb0, 0xd6, 0x96, 0x3f, 0x7d, 0x28, 0xe1, 0x7f, 0x72] := by decide

/-- P5: 56 bytes of "a", two padding blocks. -/
theorem test_finish_two_blocks : responses (exec .finish (ready (List.replicate 56 0x61) 56 [])) =
    [0x01, 0x3b, 0x0c, 0x8a, 0xc7, 0x03, 0xf8, 0x28, 0xb0, 0x4c, 0x6c, 0x19, 0x70, 0x06, 0xd1, 0x72, 0x18] := by decide

/-- V5.4, V5.5, V5.6 (second FINISH), V5.8. -/
theorem test_faults : responses (step (inPhase .uninit [0x03])) = [0xE2] ∧
    responses (step (inPhase .uninit [0x02, 0x00, 0x00, 0x00, 0x00])) = [0xE2] ∧
    responses (step (inPhase .finished [0x03])) = [0xE3] ∧ responses (step (inPhase .uninit [0x00])) = [0xE1] := by decide

/-- V5.10: held, the phase is not tested. -/
theorem test_held : step (inPhase .uninit [0x02, 0x05, 0x00, 0x00, 0x00, 0x61, 0x62]) = .fault .held := rfl

/-- S3 by the reference. -/
theorem test_md5_abc : md5 [0x61, 0x62, 0x63] =
    [0x90, 0x01, 0x50, 0x98, 0x3c, 0xd2, 0x4f, 0xb0, 0xd6, 0x96, 0x3f, 0x7d, 0x28, 0xe1, 0x7f, 0x72] := by decide

/-- Every narrow row of the opcode table runs as the very next step, and so does every byte. -/
theorem test_withFetchWord : responses (step (State.reset.withFetchWord 8 0x01)) = [0x00] ∧
    responses (step (State.reset.withFetchWord 8 0x02)) = [0xE2] ∧ responses (step (State.reset.withFetchWord 8 0x80)) = [0xE1] ∧
    (match step (State.reset.withFetchWord 6 63) with | .next _ => true | .fault _ => false | .refused _ => false) = true := by
  decide

/-! ## Witnesses: for each statement with hypotheses, a state and operands that meet them together -/

theorem witness_EncodingRoundTrip : WellFormed (.append [0x61]) = true ∧ WellFormed (.illegal 0x04) = true ∧
    WellFormed .step63 = true := by decide

theorem witness_CommandBytesAreSelfDelimiting : WellFormed (.append [0x61]) = true ∧ isCommand (.append [0x61]) = true := by
  decide

theorem witness_DecodeTakesExactlyTheEncoding : decode [0x02, 0x01, 0x00, 0x00, 0x00, 0x41, 0x03] = .command (.append [0x41]) 6 := by
  decide

theorem witness_TextLinesReadBack : (∀ c ∈ ['a', quoteChar, escapeChar, Char.ofNat 127], c.toNat < 128) ∧
    ['a', quoteChar, escapeChar, Char.ofNat 127].length < 2 ^ 32 := by
  refine ⟨by simp only [List.forall_mem_cons]; exact ⟨by decide, by decide, by decide, by decide, List.forall_mem_nil _⟩, ?_⟩
  simp only [List.length_cons, List.length_nil]
  omega

theorem witness_MoreBytesNeverChangeACommand : decode [0x03] = .command .finish 1 := by decide

/-- Each clause at the ends of its range: 0x01, 0x02, 0x03, 0x00, 0x04, 0xFF; no byte falls under two of them. -/
theorem witness_OpcodeMapIsComplete : (4 ≤ (0x04 : Byte).toNat ∧ 4 ≤ (0xFF : Byte).toNat) ∧
    ¬ ((0x03 : Byte) = 0x00 ∨ 4 ≤ (0x03 : Byte).toNat) ∧ ¬ ((0x01 : Byte) = 0x00 ∨ 4 ≤ (0x01 : Byte).toNat) := by decide

/-- Both clauses at their boundary: 0 and 3 header bytes; 1 of 2 payload bytes, with 0 and 1 more sent. -/
theorem witness_HeldUntilTheWholeAppendArrived :
    (inPhase .uninit [0x02]).work = none ∧ (inPhase .uninit [0x02]).unread = 0x02 :: [] ∧
    (inPhase .ready [0x02, 0x02, 0x00, 0x00]).unread = 0x02 :: [0x02, 0x00, 0x00] ∧
    (inPhase .ready [0x02, 0x02, 0x00, 0x00, 0x00, 0x41]).unread = 0x02 :: 0x02 :: 0x00 :: 0x00 :: 0x00 :: [0x41] ∧
    ([0x41] : List Byte).length < (wordLe 0x02 0x00 0x00 0x00).toNat ∧
    ([0x41] : List Byte).length + ([] : List Byte).length < (wordLe 0x02 0x00 0x00 0x00).toNat ∧
    (wordLe 0x02 0x00 0x00 0x00).toNat ≤ ([0x41] : List Byte).length + ([0x42] : List Byte).length := by decide

theorem witness_NoStepWhenEverythingIsConsumed : runOver State.reset := ⟨rfl, rfl⟩

theorem witness_StepRunsTheDecodedCommand : (inPhase .ready [0x03]).work = none ∧
    decode (inPhase .ready [0x03]).unread = .command .finish 1 := by decide

/-- Both clauses: an index before the last and the last. -/
theorem witness_StepInsideCompressRunsTheIndexedStep :
    (insideEmpty 0 []).work = some ⟨0, 0, 0, 0, 0⟩ ∧ (0 : BitVec 6) ≠ 63 ∧ (insideEmpty 63 []).work = some ⟨0, 0, 0, 0, 63⟩ := by
  decide

theorem witness_EveryCommandCompletesWithOneResponse : isCommand (.append [0x61]) = true ∧ (ready [] 0 []).work = none := by
  decide

theorem witness_StreamsAreConsumedAndAppendedOnly : ∃ t, step (inPhase .uninit [0x01]) = .next t := ⟨_, rfl⟩

theorem witness_InitForgetsEverything : ∃ t t', exec .init (inPhase .uninit []) = .next t ∧
    exec .init (ready [0x61] 1 []) = .next t' := ⟨_, _, rfl, rfl⟩

/-- Each clause: a state of each phase between commands. -/
theorem witness_AppendAbsorbsWholeBlocks : (ready [0x61] 1 []).work = none ∧ (ready [0x61] 1 []).PHASE = .ready ∧
    (inPhase .uninit []).work = none ∧ (inPhase .uninit []).PHASE = .uninit ∧
    (inPhase .finished []).work = none ∧ (inPhase .finished []).PHASE = .finished := by decide

/-- At the boundary: 3 bytes pending and 60 more make 63. -/
theorem witness_ShortAppendOnlyBuffers : (ready [0x61, 0x62, 0x63] 3 []).PHASE = .ready ∧ (ready [0x61, 0x62, 0x63] 3 []).work = none ∧
    (ready [0x61, 0x62, 0x63] 3 []).pending + (List.replicate 60 (0x64 : Byte)).length < 64 := by decide

theorem witness_LenCountsBitsModulo2To64 : (2 ^ 32 - 1 < 2 ^ 32) ∧ (ready [0x61] 1 []).PHASE = .ready ∧
    (ready [0x61] 1 []).work = none := by decide

theorem witness_ChunkInvariance : (ready [0x61] 1 []).PHASE = .ready ∧ (ready [0x61] 1 []).work = none := by decide

theorem witness_FinishEmitsTheDigestOfThePaddedTail : (ready (List.replicate 55 0x61) 55 []).PHASE = .ready ∧
    (ready (List.replicate 55 0x61) 55 []).pending = 55 ∧ (ready (List.replicate 56 0x61) 56 []).pending = 56 ∧
    (ready (List.replicate 56 0x61) 56 []).work = none ∧ (inPhase .uninit []).PHASE = .uninit ∧
    (inPhase .finished []).PHASE = .finished := by decide

/-- Both clauses at their boundaries. -/
theorem witness_PaddingLengthFillsOneOrTwoBlocks : (0 ≤ 55 ∧ 55 ≤ 55 ∧ ¬ 56 ≤ 55) ∧ (56 ≤ 56 ∧ 63 ≤ 63) := by decide

theorem witness_LengthSuffixLayout : (List.replicate 55 (0x61 : Byte)).length ≤ 63 ∧ (List.replicate 63 (0x61 : Byte)).length ≤ 63 ∧
    ∃ tail, tail = List.replicate 63 (0x61 : Byte) ++ padding (List.replicate 63 (0x61 : Byte)).length 504 :=
  ⟨by decide, by decide, _, rfl⟩

theorem witness_MisuseIsRejectedWhole : (inPhase .uninit []).PHASE ≠ .ready ∧ (inPhase .finished []).PHASE ≠ .ready ∧
    ∃ data, Instr.append [0x61] = .append data := ⟨by decide, by decide, _, rfl⟩

/-- The last clause, for a reserved byte with another behind it. -/
theorem witness_ReservedByteRaisesIllegalCommand : (inPhase .ready [0x04, 0x01]).work = none ∧ (0x04 : Byte) ≠ 0x01 ∧
    (0x04 : Byte) ≠ 0x02 ∧ (0x04 : Byte) ≠ 0x03 ∧ (inPhase .ready [0x04, 0x01]).unread = 0x04 :: [0x01] := by decide

theorem witness_FaultsArePrecise : ∃ t, isCommand .finish = true ∧ (inPhase .uninit []).work = none ∧
    exec .finish (inPhase .uninit []) = .next t ∧ (inPhase .uninit []).faultMark = false ∧ t.faultMark = true :=
  ⟨_, rfl, rfl, rfl, rfl, rfl⟩

theorem witness_FaultMarkIsNeverCleared : ∃ t, step { inPhase .uninit [0x01] with faultMark := true } = .next t := ⟨_, rfl⟩

theorem witness_PhaseTransitionTable : (inPhase .uninit []).work = none ∧ (inPhase .uninit []).PHASE = .uninit ∧
    (ready [] 0 []).work = none ∧ (ready [] 0 []).PHASE = .ready ∧ (inPhase .finished []).work = none ∧
    (inPhase .finished []).PHASE = .finished := by decide

/-- Both clauses: INIT from UNINIT, FINISH from READY. -/
theorem witness_OnlyInitMakesTheEngineReady :
    (∃ t, step (inPhase .uninit [0x01]) = .next t ∧ (inPhase .uninit [0x01]).PHASE ≠ .ready ∧ t.PHASE = .ready) ∧
    (∃ t, step (ready [] 0 [0x03]) = .next t ∧ (ready [] 0 [0x03]).PHASE ≠ .finished ∧ t.PHASE = .finished) := by
  refine ⟨⟨_, rfl, by decide, rfl⟩, ?_⟩
  have h : (match step (ready [] 0 [0x03]) with | .next t => decide (t.PHASE = .finished) | .fault _ => false | .refused _ => false) =
      true := by decide
  cases hs : step (ready [] 0 [0x03]) with
  | next t => rw [hs] at h; exact ⟨t, rfl, by decide, of_decide_eq_true h⟩
  | fault e => rw [hs] at h; cases h
  | refused e => rw [hs] at h; cases h

theorem witness_ResetIsTheOnlyWayToUninit : ∃ t, step (inPhase .uninit [0x03]) = .next t ∧ t.PHASE = .uninit := ⟨_, rfl, rfl⟩

/-- For the six statements about STEP 0 to 63. -/
theorem witness_Steps : (insideEmpty 5 [1, 2, 3, 4]).work = some ⟨1, 2, 3, 4, 5⟩ := by decide

theorem witness_StepsFollowTheTables : (insideEmpty 16 [1, 2, 3, 4]).work = some ⟨1, 2, 3, 4, 16⟩ ∧
    roundG = (if (16 : BitVec 6).toNat ≤ 15 then roundF else if (16 : BitVec 6).toNat ≤ 31 then roundG
      else if (16 : BitVec 6).toNat ≤ 47 then roundH else roundI) := ⟨by decide, rfl⟩

theorem witness_StepOutsideCompressIsRefused : State.reset.work = none := rfl

theorem witness_RoundFunctionsBitByBit : (0 < 32) ∧ (31 < 32) := by decide

theorem witness_WordArithmetic : (1 ≤ 1 ∧ 1 ≤ 31 ∧ 0 < 32) ∧ (1 ≤ 31 ∧ 31 ≤ 31 ∧ 31 < 32) := by decide

theorem witness_MessageWordsAreLittleEndian : (0 < 16) ∧ (15 < 16) := by decide

theorem witness_DigestLayout : (0 < 4) ∧ (3 < 4) := by decide

/-- A state with bytes pending, an APPEND unread and one good response. -/
theorem witness_EveryStepKeepsTheInvariant : ∃ t,
    Inv { ready [0x61] 1 [0x01, 0x00] with CP := 1, RSP := [0x00] } ∧
    step { ready [0x61] 1 [0x01, 0x00] with CP := 1, RSP := [0x00] } = .next t :=
  ⟨_, ⟨rfl, by decide, fun _ => by decide, fun h => absurd rfl h, fun _ => by decide, by decide, by decide⟩, rfl⟩

/-- The state APPEND "abc" leaves after INIT, and the one INIT leaves. -/
theorem witness_AbsorbedMessageInvariant : Absorbed [0x61, 0x62, 0x63] (ready [0x61, 0x62, 0x63] 3 []) ∧
    (ready [0x61, 0x62, 0x63] 3 []).work = none ∧ Absorbed [] (ready [] 0 []) :=
  ⟨⟨rfl, by decide, by decide, by decide, by decide⟩, rfl, ⟨rfl, by decide, by decide, by decide, by decide⟩⟩

theorem witness_FinishAnswersTheMessageDigest : Absorbed [0x61, 0x62, 0x63] (ready [0x61, 0x62, 0x63] 3 []) ∧
    (ready [0x61, 0x62, 0x63] 3 []).work = none := ⟨witness_AbsorbedMessageInvariant.1, rfl⟩

/-- P1's stream behind an earlier byte, with one byte after it. -/
theorem witness_StreamComputesTheMessageDigest :
    (inPhase .uninit [0x01, 0x02, 0x03, 0x00, 0x00, 0x00, 0x61, 0x62, 0x63, 0x03, 0x7F]).work = none ∧
    (∀ p ∈ [[(0x61 : Byte), 0x62, 0x63]], p.length < 2 ^ 32) ∧
    (inPhase .uninit [0x01, 0x02, 0x03, 0x00, 0x00, 0x00, 0x61, 0x62, 0x63, 0x03, 0x7F]).unread =
      encodeAll (.init :: ([[(0x61 : Byte), 0x62, 0x63]].map .append ++ [.finish])) ++ [0x7F] := by decide

theorem witness_StreamRunExecutesItsCommands : (inPhase .uninit [0x01, 0xFF, 0x03]).work = none ∧
    (∀ i ∈ [Instr.init, .illegal 0xFF], WellFormed i = true ∧ isCommand i = true) ∧
    (inPhase .uninit [0x01, 0xFF, 0x03]).unread = encodeAll [.init, .illegal 0xFF] ++ [0x03] := by decide

/-- Both directions: a well-formed sequence and one that is not. -/
theorem witness_WellFormedStreamsRaiseNoFault : (inPhase .uninit []).work = none ∧ (inPhase .uninit []).faultMark = false ∧
    (∀ i ∈ [Instr.init, .append [0x61], .finish], isCommand i = true) ∧
    legalFrom .uninit [.init, .append [0x61], .finish] = true ∧ legalFrom .uninit [.init, .finish, .finish] = false := by
  decide

/-- A before INIT differs; while READY a byte beyond the pending count differs. -/
theorem witness_UnspecifiedValuesAreUnobservable :
    SameButUnspecified { inPhase .uninit [0x01] with A := 1 } { inPhase .uninit [0x01] with A := 2 } ∧
    SameButUnspecified (ready [] 0 [0x03]) { ready [] 0 [0x03] with BUF := [(5, 0x61)] } :=
  ⟨⟨rfl, rfl, rfl, rfl, rfl, rfl, rfl, fun h => (by cases h), fun h => (by cases h), fun h => (by cases h)⟩,
   ⟨rfl, rfl, rfl, rfl, rfl, rfl, rfl, fun _ => rfl, fun _ => rfl, fun _ => by decide⟩⟩

theorem witness_EnginesAreIndependent : ∃ sys', runSchedule [0, 1, 0] [inPhase .uninit [0x01, 0x00], inPhase .uninit [0x03]] = some sys' ∧
    [inPhase .uninit [0x01, 0x00], inPhase .uninit [0x03]][1]? = some (inPhase .uninit [0x03]) := ⟨_, rfl, rfl⟩

end Sys2Proof.Tests
end

section
/-! PROOFS. COMPRESS seen from the engine's own step (R61, R98): while the working registers are there, a step of the engine
is one turn of the loop, so 64 steps from the copy-in are COMPRESS. -/

namespace Sys2Proof.Machine

/-- A run that stays inside the COMPRESS (its last step at index 63 at most) is that many turns of the loop. -/
theorem runSteps_eq_compressTurns (n : Nat) (s : State) (w : Work) (hn : w.i.toNat + n ≤ 64) :
    runSteps n (s.setWork (some w)) = compressTurns n (s.setWork (some w)) := by
  induction n generalizing w with
  | zero => rfl
  | succ n ih =>
    rw [runSteps, compressTurns, step_inside (State.setWork_work (some w) s)]
    by_cases h63 : w.i = 63
    · have hlast : w.i.toNat = 63 := by rw [h63]; rfl
      obtain rfl : n = 0 := by omega
      rfl
    · have hi : (w.turn s).i.toNat = (w.i.toNat + 1) % 64 := BitVec.toNat_add w.i 1
      rw [compressTurn_next s w h63, andThen_next, andThen_next, ih (w.turn s) (by omega)]

/-- From the copy-in, 64 steps of the engine are COMPRESS. -/
theorem runSteps_beginCompress (s : State) : runSteps 64 (s.beginCompress 0) = compress s :=
  runSteps_eq_compressTurns 64 s ⟨s.A, s.B, s.C, s.D, 0⟩ (Nat.le_refl 64)

/-- Settles O39: the engine's 64 steps are COMPRESS, and COMPRESS has its frame from `compress_spec`. -/
theorem compressRunsSixtyFourSteps : Obligations.CompressRunsSixtyFourSteps := by
  intro s
  obtain ⟨t, hcompress, hchain, hbuf, hwork, hsame⟩ := compress_spec s
  exact ⟨t, (runSteps_beginCompress s).trans hcompress, hcompress, hchain, hsame.len, hbuf,
    State.byteAt_congr hbuf hsame.draws, hsame.phase, hsame.cp, hsame.cmd, hsame.rsp, hwork, hsame.mark⟩

end Sys2Proof.Machine
end

section
/-! PROOFS. LEN as a number (R12, R76): its fields by division, and what adding the length of some bytes does to them. -/

namespace Sys2Proof.Machine

theorem State.pending_eq (s : State) : s.pending = s.LEN.toNat / 8 % 64 := by
  simp [State.pending, BitVec.extractLsb'_toNat, Nat.shiftRight_eq_div_pow]

theorem State.toNat_lenBits (s : State) : s.lenBits.toNat = s.LEN.toNat % 8 := by
  simp [State.lenBits, BitVec.extractLsb'_toNat]

theorem toNat_bitLength (L : Nat) : (bitLength L).toNat = 8 * L % 2 ^ 64 := by
  simp only [bitLength, BitVec.toNat_shiftLeft, BitVec.toNat_ofNat, Nat.shiftLeft_eq]
  omega

theorem bitLength_eq_ofNat (L : Nat) : bitLength L = BitVec.ofNat 64 (8 * L) :=
  BitVec.eq_of_toNat_eq (by rw [toNat_bitLength, BitVec.toNat_ofNat])

theorem bitLength_add (L M : Nat) : bitLength (L + M) = bitLength L + bitLength M := by
  simp only [bitLength_eq_ofNat, Nat.mul_add, BitVec.ofNat_add]

/-- The pending count follows the bytes added even when LEN wraps. -/
theorem State.pending_of_len_add {s t : State} {L : Nat} (h : t.LEN = s.LEN + bitLength L) :
    t.pending = (s.pending + L) % 64 := by
  rw [t.pending_eq, s.pending_eq, h, BitVec.toNat_add, toNat_bitLength]
  omega

/-- Adding whole bytes leaves LEN[2:0] alone. -/
theorem State.lenBits_of_len_add {s t : State} {L : Nat} (h : t.LEN = s.LEN + bitLength L) : t.lenBits = s.lenBits := by
  apply BitVec.eq_of_toNat_eq
  rw [t.toNat_lenBits, s.toNat_lenBits, h, BitVec.toNat_add, toNat_bitLength]
  omega

theorem State.pending_of_len_zero {s : State} (h : s.LEN = 0) : s.pending = 0 := by
  rw [s.pending_eq, h]
  rfl

theorem State.pendingBytes_of_len_zero {s : State} (h : s.LEN = 0) : s.pendingBytes = [] := by
  rw [State.pendingBytes, State.pending_of_len_zero h]
  rfl

end Sys2Proof.Machine
end

section
/-! PROOFS. What a host command can do, said once. A command is INIT, APPEND or FINISH while READY, or a fault entry
(`commandCases`); each of the four has one lemma that says it completes and what it leaves, and `exec_answers` is what they have
in common: one response, CP past the command, PHASE by the table of R22, the fault mark by the cause. -/

namespace Sys2Proof.Machine

/-- The cause with which the phase test at the head of APPEND and FINISH faults (R182). -/
def Phase.misuse : Phase → Option Cause
  | .uninit => some .notInitialized
  | .ready => none
  | .finished => some .alreadyFinished

/-- The cause a command raises in a phase, if it raises one (R181, R182). -/
def faultCause : Instr → Phase → Option Cause
  | .illegal _, _ => some .illegalCommand
  | .append _, p => p.misuse
  | .finish, p => p.misuse
  | _, _ => none

/-- The cause a response carries. -/
def Response.cause? : Response → Option Cause
  | .ok => none
  | .digest _ _ _ _ => none
  | .err c => some c

@[simp] theorem length_commandBytes_append (data : List Byte) : (commandBytes (.append data)).length = 5 + data.length := by
  simp [commandBytes, encode]
  omega

theorem isCommand_cases {i : Instr} (hi : isCommand i = true) :
    i = .init ∨ (∃ data, i = .append data) ∨ i = .finish ∨ ∃ op, i = .illegal op := by
  cases i with
  | init => exact .inl rfl
  | append data => exact .inr (.inl ⟨data, rfl⟩)
  | finish => exact .inr (.inr (.inl rfl))
  | illegal op => exact .inr (.inr (.inr ⟨op, rfl⟩))
  | _ => cases hi

theorem Phase.ready_or_misuse (p : Phase) : p = .ready ∨ ∃ c, p.misuse = some c := by
  cases p with
  | uninit => exact .inr ⟨_, rfl⟩
  | ready => exact .inl rfl
  | finished => exact .inr ⟨_, rfl⟩

/-- The four things a host command can be in a phase. -/
theorem commandCases {i : Instr} (hi : isCommand i = true) (p : Phase) :
    i = .init ∨ (∃ data, i = .append data ∧ p = .ready) ∨ (i = .finish ∧ p = .ready) ∨ ∃ c, faultCause i p = some c := by
  rcases isCommand_cases hi with rfl | ⟨data, rfl⟩ | rfl | ⟨op, rfl⟩
  · exact .inl rfl
  · rcases p.ready_or_misuse with hp | hc
    · exact .inr (.inl ⟨data, rfl, hp⟩)
    · exact .inr (.inr (.inr hc))
  · rcases p.ready_or_misuse with hp | hc
    · exact .inr (.inr (.inl ⟨rfl, hp⟩))
    · exact .inr (.inr (.inr hc))
  · exact .inr (.inr (.inr ⟨_, rfl⟩))

/-- What every command does to the interface, PHASE and the fault mark, when it answers r (R17, R22, R41, R56, R192). -/
structure Answered (i : Instr) (r : Response) (s t : State) : Prop where
  rsp : t.RSP = s.RSP ++ r.bytes
  cp : t.CP = s.CP + (commandBytes i).length
  cmd : t.CMD = s.CMD
  work : t.work = s.work
  phase : t.PHASE = phaseAfter i s.PHASE
  cause : r.cause? = faultCause i s.PHASE
  mark : t.faultMark = (s.faultMark || r.cause?.isSome)

/-- What INIT leaves (R70). -/
structure InitDone (s t : State) : Prop extends Answered .init .ok s t where
  chain : t.chain = Chain.init
  len : t.LEN = 0
  buf : t.BUF = []

/-- What APPEND leaves while READY (R71): the stream `pending bytes ++ data` in whole blocks and a rest. -/
structure AppendDone (data : List Byte) (s t : State) : Prop extends Answered (.append data) .ok s t where
  chain : t.chain = refBlocks ((s.pending + data.length) / 64) s.chain (s.pendingBytes ++ data)
  bytes : t.pendingBytes = (s.pendingBytes ++ data).drop (64 * ((s.pending + data.length) / 64))
  len : t.LEN = s.LEN + bitLength data.length
  bufWf : t.BUF.wf
  bufOffsets : t.BUF.map Prod.fst = List.range t.pending

/-- The digest FINISH emits while READY (R72): the fold over the pending bytes and the padding. -/
def State.finalChain (s : State) : Chain :=
  refBlocks ((s.pending + padlen s.pending + 8) / 64) s.chain (s.pendingBytes ++ padding s.pending s.LEN)

/-- The response that carries a chaining value (R56). -/
def Chain.response (h : Chain) : Response := .digest h.a h.b h.c h.d

@[simp] theorem Chain.response_bytes (h : Chain) : h.response.bytes = 0x01 :: h.digest := rfl

/-- What FINISH leaves while READY (R72). -/
structure FinishDone (s t : State) : Prop extends Answered .finish s.finalChain.response s t where
  buf : t.BUF = []

theorem exec_init (s : State) : ∃ t, exec .init s = .next t ∧ InitDone s t :=
  ⟨_, rfl, ⟨rfl, rfl, rfl, rfl, rfl, rfl, (Bool.or_false _).symm⟩, rfl, rfl, rfl⟩

theorem whenReady_ready {m : Nat} {s : State} {body : Result} (h : s.PHASE = .ready) : whenReady m s body = body := by
  simp only [whenReady, h]

theorem whenReady_misuse {m : Nat} {s : State} {body : Result} {c : Cause} (h : s.PHASE.misuse = some c) :
    whenReady m s body = .next (s.raise c m) := by
  cases hp : s.PHASE with
  | uninit => rw [hp] at h; cases h; simp only [whenReady, hp]
  | ready => rw [hp] at h; cases h
  | finished => rw [hp] at h; cases h; simp only [whenReady, hp]

/-- The one way a command faults (R183). -/
theorem exec_fault {i : Instr} {s : State} {c : Cause} (h : faultCause i s.PHASE = some c) :
    exec i s = .next (s.raise c (commandBytes i).length) := by
  cases i with
  | append data => rw [length_commandBytes_append]; exact whenReady_misuse h
  | finish => exact whenReady_misuse h
  | illegal op => cases h; rfl
  | _ => cases h

theorem exec_append (data : List Byte) {s : State} (hp : s.PHASE = .ready) (hw : s.work = none) :
    ∃ t, exec (.append data) s = .next t ∧ AppendDone data s t := by
  obtain ⟨u, hu, hchain, hrest, hwork, hsame⟩ := absorb_spec data s.pending s s.pending_lt hw
  have hexec : exec (.append data) s = .next (appendEnd data.length u) := by
    rw [show exec (.append data) s = execAppend data s from rfl, execAppend, whenReady_ready hp, hu, andThen_next]
  have hlen : (appendEnd data.length u).LEN = s.LEN + bitLength data.length := congrArg (· + _) hsame.len
  have hpending : (appendEnd data.length u).pending = (s.pending + data.length) % 64 := State.pending_of_len_add hlen
  have hbuf : (appendEnd data.length u).BUF =
      (List.range (appendEnd data.length u).pending).map (fun j => (j, u.byteAt j)) := rfl
  have hbyte : ∀ j ∈ List.range (appendEnd data.length u).pending, (appendEnd data.length u).byteAt j = u.byteAt j :=
    fun j hj => State.byteAt_forgetBufFrom (u.setLen (u.LEN + bitLength data.length)) (List.mem_range.mp hj)
  refine ⟨_, hexec, ⟨congrArg (· ++ _) hsame.rsp, ?_, hsame.cmd, hwork.trans hw.symm, hsame.phase, ?_, ?_⟩,
    hchain, ?_, hlen, ?_, ?_⟩
  · rw [length_commandBytes_append]
    exact congrArg (· + _) hsame.cp
  · rw [hp]; rfl
  · exact hsame.mark.trans (Bool.or_false _).symm
  · rw [State.pendingBytes, List.map_congr_left hbyte, hpending, hrest]
    rfl
  · rw [hbuf]
    exact Memory.wf_range_map _ (Nat.le_of_lt (State.pending_lt _))
  · rw [hbuf, List.map_map]
    exact List.map_id _

theorem exec_finish {s : State} (hp : s.PHASE = .ready) (hw : s.work = none) :
    ∃ t, exec .finish s = .next t ∧ FinishDone s t := by
  obtain ⟨u, hu, hchain, hwork, hsame⟩ := finishBlocks_spec s.pending s.LEN s s.pending_lt
  have hexec : exec .finish s = .next (finishEnd u) := by
    rw [show exec .finish s = execFinish s from rfl, execFinish, whenReady_ready hp, hu, andThen_next]
  have hresponse : Response.digest u.A u.B u.C u.D = s.finalChain.response := congrArg Chain.response hchain
  refine ⟨_, hexec, ⟨?_, congrArg (· + 1) hsame.cp, hsame.cmd, hwork.trans hw.symm, ?_, ?_, ?_⟩, rfl⟩
  · rw [← hresponse, ← hsame.rsp]; rfl
  · rw [hp]; rfl
  · rw [hp]; rfl
  · exact hsame.mark.trans (Bool.or_false _).symm

theorem phaseAfter_of_faultCause {i : Instr} {p : Phase} {c : Cause} (h : faultCause i p = some c) : phaseAfter i p = p := by
  cases i with
  | append data => rfl
  | illegal op => rfl
  | finish =>
    cases p with
    | ready => cases h
    | _ => rfl
  | _ => cases h

theorem State.raise_answered {i : Instr} {s : State} {c : Cause} (h : faultCause i s.PHASE = some c) :
    Answered i (.err c) s (s.raise c (commandBytes i).length) :=
  ⟨rfl, rfl, rfl, rfl, (phaseAfter_of_faultCause h).symm, h.symm, (Bool.or_true _).symm⟩

/-- Every host command completes between commands, with one response. -/
theorem exec_answers {i : Instr} {s : State} (hi : isCommand i = true) (hw : s.work = none) :
    ∃ t r, exec i s = .next t ∧ Answered i r s t := by
  rcases commandCases hi s.PHASE with rfl | ⟨data, rfl, hp⟩ | ⟨rfl, hp⟩ | ⟨c, hc⟩
  · obtain ⟨t, ht, hdone⟩ := exec_init s
    exact ⟨t, _, ht, hdone.toAnswered⟩
  · obtain ⟨t, ht, hdone⟩ := exec_append data hp hw
    exact ⟨t, _, ht, hdone.toAnswered⟩
  · obtain ⟨t, ht, hdone⟩ := exec_finish hp hw
    exact ⟨t, _, ht, hdone.toAnswered⟩
  · exact ⟨_, _, exec_fault hc, State.raise_answered hc⟩

end Sys2Proof.Machine
end

section
/-! PROOFS. What one step can do, from the decoder on: a decoded command is a host command of the length decoded, all of whose
bytes have arrived; a step inside a COMPRESS leaves the interface and the control registers alone. -/

namespace Sys2Proof.Machine

/-- What the decoder answers on an APPEND carries exactly the bytes counted. -/
theorem decodeAppend_command {bytes : List Byte} {i : Instr} {len : Nat} (h : decodeAppend bytes = .command i len) :
    ∃ data, i = .append data ∧ len = 5 + data.length ∧ len ≤ bytes.length + 1 := by
  unfold decodeAppend at h
  split at h
  · split at h
    · cases h
    · rename_i hlong
      cases h
      refine ⟨_, rfl, ?_, ?_⟩
      · rw [List.length_take, Nat.min_eq_left (Nat.le_of_not_lt hlong)]
      · simp only [List.length_cons]; omega
  · cases h

/-- The decoder reads host commands only, takes exactly their encoded length, and reads no byte that has not arrived. -/
theorem decode_command {bytes : List Byte} {i : Instr} {len : Nat} (h : decode bytes = .command i len) :
    isCommand i = true ∧ len = (commandBytes i).length ∧ len ≤ bytes.length := by
  cases bytes with
  | nil => cases h
  | cons op rest =>
    have hone : 1 ≤ (op :: rest).length := Nat.succ_le_succ (Nat.zero_le _)
    simp only [decode] at h
    split at h
    · cases h; exact ⟨rfl, rfl, hone⟩
    · split at h
      · cases h; exact ⟨rfl, rfl, hone⟩
      · split at h
        · obtain ⟨data, rfl, hlen, hle⟩ := decodeAppend_command h
          exact ⟨rfl, by rw [hlen, length_commandBytes_append], hle⟩
        · cases h; exact ⟨rfl, rfl, hone⟩

/-- A step between commands is a host command, executed, whose bytes were all there. -/
theorem step_between_command {s t : State} (hw : s.work = none) (h : step s = .next t) :
    ∃ i len, decode s.unread = .command i len ∧ isCommand i = true ∧ len = (commandBytes i).length ∧
      len ≤ s.CMD.length - s.CP ∧ exec i s = .next t := by
  obtain ⟨i, len, hd, he⟩ := step_between hw h
  obtain ⟨hi, hlen, hle⟩ := decode_command hd
  exact ⟨i, len, hd, hi, hlen, by rwa [State.unread, List.length_drop] at hle, he⟩

/-- `exec_answers` for a state that is known to be the next one. -/
theorem answered_of_exec {i : Instr} {s t : State} (hi : isCommand i = true) (hw : s.work = none) (h : exec i s = .next t) :
    ∃ r, Answered i r s t := by
  obtain ⟨t', r, ht', hans⟩ := exec_answers hi hw
  cases h.symm.trans ht'
  exact ⟨r, hans⟩

/-- A step inside a COMPRESS changes A to D and the working registers only. -/
theorem step_inside_sameControl {s t : State} {w : Work} (hw : s.work = some w) (h : step s = .next t) : SameControl s t := by
  have hs : s.setWork (some w) = s := by rw [← hw]; rfl
  rw [step_inside hw, ← hs] at h
  by_cases h63 : w.i = 63
  · rw [compressTurn_last s w h63] at h
    cases h
    exact ⟨rfl, rfl, rfl, rfl, rfl, rfl, rfl⟩
  · rw [compressTurn_next s w h63] at h
    cases h
    exact ⟨rfl, rfl, rfl, rfl, rfl, rfl, rfl⟩

/-- What any step does to the interface, PHASE and the fault mark: nothing inside a COMPRESS, one command's answer otherwise. -/
theorem step_next_cases {s t : State} (h : step s = .next t) : SameControl s t ∨ ∃ i r, Answered i r s t := by
  cases hw : s.work with
  | some w => exact .inl (step_inside_sameControl hw h)
  | none =>
    obtain ⟨i, len, -, hi, -, -, he⟩ := step_between_command hw h
    obtain ⟨r, hans⟩ := answered_of_exec hi hw he
    exact .inr ⟨i, r, hans⟩

theorem phaseAfter_eq_uninit {i : Instr} {p : Phase} (h : phaseAfter i p = .uninit) : p = .uninit := by
  unfold phaseAfter at h
  split at h
  · cases h
  · cases h
  · exact h

theorem init_of_phaseAfter_ready {i : Instr} {p : Phase} (hp : p ≠ .ready) (h : phaseAfter i p = .ready) : i = .init := by
  unfold phaseAfter at h
  split at h
  · rfl
  · cases h
  · exact absurd h hp

theorem finish_of_phaseAfter_finished {i : Instr} {p : Phase} (hp : p ≠ .finished) (h : phaseAfter i p = .finished) :
    i = .finish := by
  unfold phaseAfter at h
  split at h
  · cases h
  · rfl
  · exact absurd h hp

end Sys2Proof.Machine
end

section
/-! PROOFS. The interface and the phases: O13, O14, O28, O29, O30, O51, and the refusal of a STEP outside a COMPRESS, O38. -/

namespace Sys2Proof.Machine

/-- Settles O13, from what every host command does. -/
theorem everyCommandCompletesWithOneResponse : Obligations.EveryCommandCompletesWithOneResponse := by
  intro i s hi hw
  obtain ⟨t, r, ht, hans⟩ := exec_answers hi hw
  exact ⟨t, r, ht, hans.rsp, hans.cp, hans.cmd, hans.work.trans hw⟩

/-- Settles O14: a step inside a COMPRESS leaves the streams alone, any other is a command with one response. -/
theorem streamsAreConsumedAndAppendedOnly : Obligations.StreamsAreConsumedAndAppendedOnly := by
  refine ⟨rfl, fun _ => rfl, fun s t h => ?_⟩
  rcases step_next_cases h with hsame | ⟨i, r, hans⟩
  · exact ⟨hsame.cmd, hsame.rsp ▸ List.prefix_refl _, Nat.le_of_eq hsame.cp.symm⟩
  · exact ⟨hans.cmd, hans.rsp ▸ List.prefix_append _ _, hans.cp ▸ Nat.le_add_right _ _⟩

theorem append_phase_row (data : List Byte) {s : State} (hw : s.work = none) :
    ∃ t, exec (.append data) s = .next t ∧ t.PHASE = s.PHASE ∧
      (s.PHASE = .uninit → t.RSP = s.RSP ++ [0xE2]) ∧ (s.PHASE = .ready → t.RSP = s.RSP ++ [0x00]) ∧
      (s.PHASE = .finished → t.RSP = s.RSP ++ [0xE3]) := by
  cases hp : s.PHASE with
  | uninit =>
    have hc : faultCause (.append data) s.PHASE = some .notInitialized := by rw [hp]; rfl
    exact ⟨_, exec_fault hc, hp, fun _ => rfl, nofun, nofun⟩
  | ready =>
    obtain ⟨t, ht, hdone⟩ := exec_append data hp hw
    exact ⟨t, ht, hdone.phase.trans hp, nofun, fun _ => hdone.rsp, nofun⟩
  | finished =>
    have hc : faultCause (.append data) s.PHASE = some .alreadyFinished := by rw [hp]; rfl
    exact ⟨_, exec_fault hc, hp, nofun, nofun, fun _ => rfl⟩

theorem finish_phase_row {s : State} (hw : s.work = none) :
    ∃ t, exec .finish s = .next t ∧ (s.PHASE = .uninit → t.PHASE = .uninit ∧ t.RSP = s.RSP ++ [0xE2]) ∧
      (s.PHASE = .ready → t.PHASE = .finished) ∧
      (s.PHASE = .finished → t.PHASE = .finished ∧ t.RSP = s.RSP ++ [0xE3]) := by
  cases hp : s.PHASE with
  | uninit =>
    have hc : faultCause .finish s.PHASE = some .notInitialized := by rw [hp]; rfl
    exact ⟨_, exec_fault hc, fun _ => ⟨hp, rfl⟩, nofun, nofun⟩
  | ready =>
    obtain ⟨t, ht, hdone⟩ := exec_finish hp hw
    have hphase : t.PHASE = .finished := hdone.phase.trans (by rw [hp]; rfl)
    exact ⟨t, ht, nofun, fun _ => hphase, nofun⟩
  | finished =>
    have hc : faultCause .finish s.PHASE = some .alreadyFinished := by rw [hp]; rfl
    exact ⟨_, exec_fault hc, nofun, nofun, fun _ => ⟨hp, rfl⟩⟩

/-- Settles O28, row by row of R22's table. -/
theorem phaseTransitionTable : Obligations.PhaseTransitionTable := by
  intro s hw
  obtain ⟨t, ht, hdone⟩ := exec_init s
  exact ⟨⟨t, ht, hdone.phase, hdone.rsp, hdone.chain, hdone.len, State.pendingBytes_of_len_zero hdone.len⟩,
    fun data => append_phase_row data hw, finish_phase_row hw, fun _ => ⟨_, rfl, rfl, rfl⟩, rfl⟩

/-- Settles O29, from the table `phaseAfter` that every command follows. -/
theorem onlyInitMakesTheEngineReady : Obligations.OnlyInitMakesTheEngineReady := by
  intro s t hw h
  obtain ⟨i, len, hd, hi, -, -, he⟩ := step_between_command hw h
  obtain ⟨r, hans⟩ := answered_of_exec hi hw he
  rw [hans.phase]
  refine ⟨fun hp h' => ⟨len, ?_⟩, fun hp h' => ⟨len, ?_⟩⟩
  · rw [hd, init_of_phaseAfter_ready hp h']
  · rw [hd, finish_of_phaseAfter_finished hp h']

/-- Settles O30: no step, inside a COMPRESS or between commands, moves PHASE to UNINIT. -/
theorem resetIsTheOnlyWayToUninit : Obligations.ResetIsTheOnlyWayToUninit := by
  refine ⟨fun _ => ⟨rfl, rfl, rfl, rfl, rfl⟩, ⟨rfl, rfl, rfl, rfl, rfl⟩, fun s t h ht => ?_⟩
  rcases step_next_cases h with hsame | ⟨i, r, hans⟩
  · exact hsame.phase.symm.trans ht
  · exact phaseAfter_eq_uninit (hans.phase.symm.trans ht)

/-- A sequence is well formed when its first command raises nothing and the rest is well formed from the phase after it. -/
theorem legalFrom_cons {i : Instr} (hi : isCommand i = true) (p : Phase) (rest : List Instr) :
    legalFrom p (i :: rest) = ((faultCause i p).isNone && legalFrom (phaseAfter i p) rest) := by
  rcases isCommand_cases hi with rfl | ⟨data, rfl⟩ | rfl | ⟨op, rfl⟩
  · rfl
  · cases p <;> rfl
  · cases p <;> rfl
  · cases p <;> rfl

/-- Whatever the mark was, a sequence of commands completes and marks a fault exactly when it is not well formed. -/
theorem execAll_mark (commands : List Instr) {s : State} (hw : s.work = none) (hc : ∀ i ∈ commands, isCommand i = true) :
    ∃ t, execAll commands s = .next t ∧ t.faultMark = (s.faultMark || !legalFrom s.PHASE commands) := by
  induction commands generalizing s with
  | nil => exact ⟨s, rfl, (Bool.or_false _).symm⟩
  | cons i rest ih =>
    obtain ⟨hi, hrest⟩ := List.forall_mem_cons.mp hc
    obtain ⟨u, r, hu, hans⟩ := exec_answers hi hw
    obtain ⟨t, ht, hmark⟩ := ih (hans.work.trans hw) hrest
    refine ⟨t, by rw [execAll, hu, andThen_next, ht], ?_⟩
    rw [hmark, hans.mark, hans.cause, hans.phase, legalFrom_cons hi, Bool.not_and, Bool.or_assoc, Option.not_isNone]

/-- Settles O51, by induction on the sequence. -/
theorem wellFormedStreamsRaiseNoFault : Obligations.WellFormedStreamsRaiseNoFault := by
  intro commands s hw hmark hc
  obtain ⟨t, ht, htmark⟩ := execAll_mark commands hw hc
  refine ⟨t, ht, ?_⟩
  rw [htmark, hmark, Bool.false_or, Bool.not_eq_false']

/-- Settles O38: every index selects the shared step, and that has no registers outside a COMPRESS. -/
theorem stepOutsideCompressIsRefused : Obligations.StepOutsideCompressIsRefused := by
  intro i s hw
  rw [exec_decodeStep, stepMeaning_eq_stepOp, stepOp_refused _ _ _ _ hw]

end Sys2Proof.Machine
end

section
/-! PROOFS. The message absorbed since the last INIT (R21) and its digest (R80): O16, O47, O48. -/

namespace Sys2Proof.Machine

/-- Settles O16: what INIT leaves is the same constants from every state. -/
theorem initForgetsEverything : Obligations.InitForgetsEverything := by
  intro s s' t t' ht ht'
  obtain ⟨u, hu, hdone⟩ := exec_init s
  obtain ⟨u', hu', hdone'⟩ := exec_init s'
  cases ht.symm.trans hu
  cases ht'.symm.trans hu'
  refine ⟨hdone.chain.trans hdone'.chain.symm, hdone.len.trans hdone'.len.symm, hdone.phase.trans hdone'.phase.symm,
    hdone.buf.trans hdone'.buf.symm, ?_⟩
  rw [State.pendingBytes_of_len_zero hdone.len, State.pendingBytes_of_len_zero hdone'.len]

/-- The whole blocks of a message, then those of its tail and what follows it, are the whole blocks of all of it. -/
theorem whole_blocks_add (m k : Nat) : 64 * (m / 64) + 64 * ((m % 64 + k) / 64) = 64 * ((m + k) / 64) := by omega

theorem drop_whole_blocks_append (msg more : List Byte) :
    msg.drop (64 * (msg.length / 64)) ++ more = (msg ++ more).drop (64 * (msg.length / 64)) :=
  (List.drop_append_of_le_length (Nat.mul_div_le _ _)).symm

/-- The fold over a message may stop at its last whole block and go on with its tail and what follows it. -/
theorem refBlocks_resume (h : Chain) (msg more : List Byte) (k : Nat) :
    refBlocks ((msg.length % 64 + k) / 64) (refBlocks (msg.length / 64) h msg)
        (msg.drop (64 * (msg.length / 64)) ++ more) =
      refBlocks ((msg.length + k) / 64) h (msg ++ more) := by
  have hq : (msg.length + k) / 64 = msg.length / 64 + (msg.length % 64 + k) / 64 := by omega
  rw [hq, refBlocks_add, refBlocks_append _ _ _ _ (Nat.mul_div_le _ _), drop_whole_blocks_append]

theorem absorbed_nil_of_initDone {s t : State} (h : InitDone s t) : Absorbed [] t where
  phase := h.phase
  count := by rw [State.pending_of_len_zero h.len]; decide
  len := ⟨h.len, by rw [State.lenBits, h.len]; decide⟩
  bytes := State.pendingBytes_of_len_zero h.len
  chain := h.chain

theorem absorbed_append_of_appendDone {msg data : List Byte} {s t : State} (hs : Absorbed msg s) (h : AppendDone data s t) :
    Absorbed (msg ++ data) t := by
  obtain ⟨hcount, -⟩ := hs.count
  obtain ⟨hlen, hbits⟩ := hs.len
  refine ⟨?_, ⟨?_, Nat.le_of_lt_succ t.pending_lt⟩, ⟨?_, ?_⟩, ?_, ?_⟩
  · rw [h.phase, hs.phase]; rfl
  · rw [State.pending_of_len_add h.len, hcount, List.length_append, Nat.mod_add_mod]
  · rw [h.len, hlen, ← bitLength_eq_ofNat, ← bitLength_eq_ofNat, List.length_append, bitLength_add]
  · rw [State.lenBits_of_len_add h.len, hbits]
  · rw [h.bytes, hs.bytes, hcount, drop_whole_blocks_append, List.drop_drop, whole_blocks_add, List.length_append]
  · rw [h.chain, hs.chain, hs.bytes, hcount, refBlocks_resume, List.length_append]

/-- Settles O47: INIT establishes R21 for the empty message and APPEND carries it on. -/
theorem absorbedMessageInvariant : Obligations.AbsorbedMessageInvariant := by
  refine ⟨fun s => ?_, fun msg data s hs hw => ?_⟩
  · obtain ⟨t, ht, hdone⟩ := exec_init s
    exact ⟨t, ht, absorbed_nil_of_initDone hdone⟩
  · obtain ⟨t, ht, hdone⟩ := exec_append data hs.phase hw
    exact ⟨t, ht, absorbed_append_of_appendDone hs hdone⟩

theorem length_padding {n : Nat} (hn : n < 64) (L0 : Len) : (padding n L0).length = padlen n + 8 := by
  have hpos : 1 ≤ padlen n := by unfold padlen; split <;> omega
  simp only [padding, List.length_cons, List.length_append, List.length_replicate, length_le64]
  omega

/-- The digest of an absorbed message is that message's. -/
theorem digest_finalChain {msg : List Byte} {s : State} (hs : Absorbed msg s) : s.finalChain.digest = md5 msg := by
  obtain ⟨hcount, -⟩ := hs.count
  obtain ⟨hlen, -⟩ := hs.len
  rw [State.finalChain, md5, paddedMessage, List.length_append, length_padding (Nat.mod_lt _ (by decide)), hs.chain, hs.bytes,
    hcount, hlen, ← bitLength_eq_ofNat, Nat.add_assoc, refBlocks_resume]

/-- Settles O48: FINISH emits the final chain, and that is the message's. -/
theorem finishAnswersTheMessageDigest : Obligations.FinishAnswersTheMessageDigest := by
  intro msg s hs hw
  obtain ⟨t, ht, hdone⟩ := exec_finish hs.phase hw
  refine ⟨t, ht, ?_⟩
  rw [hdone.rsp, Chain.response_bytes, digest_finalChain hs]

end Sys2Proof.Machine
end

section
/-! PROOFS. The invariant of the states between commands: O45, O46. -/

namespace Sys2Proof.Machine

/-! ### The fault mark and RSP (R56, R192) -/

theorem scanRsp_append (xs ys : List Byte) (skip : Nat) (seen : Bool) :
    scanRsp (xs ++ ys) skip seen = scanRsp ys (scanRsp xs skip seen).1 (scanRsp xs skip seen).2 := by
  fun_induction scanRsp xs skip seen with
  | case1 => rfl
  | case2 _ _ _ _ ih => exact ih
  | case3 _ _ ih => rw [List.cons_append, scanRsp, if_pos rfl]; exact ih
  | case4 _ _ _ h1 h2 ih => rw [List.cons_append, scanRsp, if_neg h1, if_pos h2]; exact ih
  | case5 _ _ _ h1 h2 ih => rw [List.cons_append, scanRsp, if_neg h1, if_neg h2]; exact ih

/-- The bytes of a DIGEST response are passed over. -/
theorem scanRsp_skip (xs : List Byte) (seen : Bool) : scanRsp xs xs.length seen = (0, seen) := by
  induction xs with
  | nil => rfl
  | cons x xs ih => exact ih

/-- Reading one whole response from a response boundary ends at one, and notes whether it is an ERR. -/
theorem scanRsp_response (r : Response) (seen : Bool) : scanRsp r.bytes 0 seen = (0, seen || r.cause?.isSome) := by
  cases r with
  | ok => exact congrArg _ (Bool.or_false _).symm
  | digest a b c d => exact (scanRsp_skip (digestBytes a b c d) seen).trans (congrArg _ (Bool.or_false _).symm)
  | err cause =>
    rw [Response.cause?, Option.isSome_some, Bool.or_true]
    cases cause <;> rfl

theorem Answered.scanRsp_mark {i : Instr} {r : Response} {s t : State} (h : Answered i r s t)
    (hs : scanRsp s.RSP 0 false = (0, s.faultMark)) : scanRsp t.RSP 0 false = (0, t.faultMark) := by
  rw [h.rsp, scanRsp_append, hs, scanRsp_response, h.mark]

/-! ### BUF and LEN -/

/-- The part of `Inv` that speaks of BUF and LEN. -/
structure BufferInv (s : State) : Prop where
  bufWf : s.BUF.wf
  bufReady : s.PHASE = .ready → s.BUF.map Prod.fst = List.range s.pending
  bufIdle : s.PHASE ≠ .ready → s.BUF = []
  wholeBytes : s.PHASE = .ready → s.lenBits = 0

theorem Inv.buffer {s : State} (h : Inv s) : BufferInv s := ⟨h.bufWf, h.bufReady, h.bufIdle, h.wholeBytes⟩

theorem bufferInv_of_initDone {s t : State} (h : InitDone s t) : BufferInv t where
  bufWf := by rw [h.buf]; exact Memory.wf_nil
  bufReady _ := by rw [h.buf, State.pending_of_len_zero h.len]; rfl
  bufIdle _ := h.buf
  wholeBytes _ := by rw [State.lenBits, h.len]; decide

theorem bufferInv_of_appendDone {data : List Byte} {s t : State} (hp : s.PHASE = .ready) (hs : BufferInv s)
    (h : AppendDone data s t) : BufferInv t where
  bufWf := h.bufWf
  bufReady _ := h.bufOffsets
  bufIdle hne := absurd (h.phase.trans hp) hne
  wholeBytes _ := (State.lenBits_of_len_add h.len).trans (hs.wholeBytes hp)

theorem bufferInv_of_finishDone {s t : State} (hp : s.PHASE = .ready) (h : FinishDone s t) : BufferInv t := by
  have hphase : t.PHASE = .finished := h.phase.trans (by rw [hp]; rfl)
  have hne : t.PHASE ≠ .ready := by rw [hphase]; decide
  exact ⟨by rw [h.buf]; exact Memory.wf_nil, fun hr => absurd hr hne, fun _ => h.buf, fun hr => absurd hr hne⟩

/-- A fault entry writes neither BUF, LEN nor PHASE. -/
theorem bufferInv_raise {s : State} (hs : BufferInv s) (c : Cause) (m : Nat) : BufferInv (s.raise c m) :=
  ⟨hs.bufWf, hs.bufReady, hs.bufIdle, hs.wholeBytes⟩

theorem exec_keeps_bufferInv {i : Instr} {s t : State} (hi : isCommand i = true) (hw : s.work = none) (hs : BufferInv s)
    (h : exec i s = .next t) : BufferInv t := by
  rcases commandCases hi s.PHASE with rfl | ⟨data, rfl, hp⟩ | ⟨rfl, hp⟩ | ⟨c, hc⟩
  · obtain ⟨u, hu, hdone⟩ := exec_init s
    cases h.symm.trans hu
    exact bufferInv_of_initDone hdone
  · obtain ⟨u, hu, hdone⟩ := exec_append data hp hw
    cases h.symm.trans hu
    exact bufferInv_of_appendDone hp hs hdone
  · obtain ⟨u, hu, hdone⟩ := exec_finish hp hw
    cases h.symm.trans hu
    exact bufferInv_of_finishDone hp hdone
  · cases h.symm.trans (exec_fault hc)
    exact bufferInv_raise hs c _

/-- Settles O45: right after reset PHASE is UNINIT, so BUF lists nothing and LEN is free. -/
theorem invariantAtReset : Obligations.InvariantAtReset :=
  ⟨rfl, reset_buf_wf, nofun, fun _ => rfl, nofun, Nat.le_refl 0, rfl⟩

/-- Settles O46: a step is one command whose bytes have all arrived; BUF and LEN go command by command, CP, RSP and the mark
alike for all. -/
theorem everyStepKeepsTheInvariant : Obligations.EveryStepKeepsTheInvariant := by
  intro s t hs h
  obtain ⟨i, len, -, hi, hlen, hle, he⟩ := step_between_command hs.between h
  obtain ⟨r, hans⟩ := answered_of_exec hi hs.between he
  have hbuf := exec_keeps_bufferInv hi hs.between hs.buffer he
  have hcursor : t.CP ≤ t.CMD.length := by
    have hcp := hs.cursor
    rw [hans.cp, hans.cmd, ← hlen]
    omega
  exact ⟨hans.work.trans hs.between, hbuf.bufWf, hbuf.bufReady, hbuf.bufIdle, hbuf.wholeBytes, hcursor,
    hans.scanRsp_mark hs.mark⟩

end Sys2Proof.Machine
end

section
/-! PROOFS. Non-interference of unspecified values (R16): O52. -/

namespace Sys2Proof.Machine

/-- Two states that a command with one response leaves from two states alike are alike, if the message registers are. -/
theorem sameButUnspecified_of_answered {i : Instr} {r : Response} {s t s' t' : State} (h : SameButUnspecified s t)
    (hs : Answered i r s s') (ht : Answered i r t t')
    (hmsg : s'.PHASE = .ready → s'.chain = t'.chain ∧ s'.LEN = t'.LEN ∧ s'.pendingBytes = t'.pendingBytes) :
    SameButUnspecified s' t' where
  left := hs.work.trans h.left
  right := ht.work.trans h.right
  cp := by rw [hs.cp, ht.cp, h.cp]
  cmd := by rw [hs.cmd, ht.cmd, h.cmd]
  rsp := by rw [hs.rsp, ht.rsp, h.rsp]
  phase := by rw [hs.phase, ht.phase, h.phase]
  mark := by rw [hs.mark, ht.mark, h.mark]
  chain hp := (hmsg hp).1
  len hp := (hmsg hp).2.1
  bytes hp := (hmsg hp).2.2

theorem pending_eq_of_len_eq {s t : State} (h : s.LEN = t.LEN) : s.pending = t.pending := by
  rw [s.pending_eq, t.pending_eq, h]

theorem SameButUnspecified.finalChain {s t : State} (h : SameButUnspecified s t) (hp : s.PHASE = .ready) :
    s.finalChain = t.finalChain := by
  rw [State.finalChain, State.finalChain, pending_eq_of_len_eq (h.len hp), h.chain hp, h.bytes hp, h.len hp]

/-- A host command takes two states alike to two states alike. -/
theorem exec_outcomesAgree {i : Instr} {s t : State} (hi : isCommand i = true) (h : SameButUnspecified s t) :
    outcomesAgree (exec i s) (exec i t) := by
  rcases commandCases hi s.PHASE with rfl | ⟨data, rfl, hp⟩ | ⟨rfl, hp⟩ | ⟨c, hc⟩
  · obtain ⟨s', hs', hs⟩ := exec_init s
    obtain ⟨t', ht', ht⟩ := exec_init t
    rw [hs', ht']
    refine sameButUnspecified_of_answered h hs.toAnswered ht.toAnswered fun _ => ⟨?_, ?_, ?_⟩
    · rw [hs.chain, ht.chain]
    · rw [hs.len, ht.len]
    · rw [State.pendingBytes_of_len_zero hs.len, State.pendingBytes_of_len_zero ht.len]
  · obtain ⟨s', hs', hs⟩ := exec_append data hp h.left
    obtain ⟨t', ht', ht⟩ := exec_append data (h.phase.symm.trans hp) h.right
    have hpending := pending_eq_of_len_eq (h.len hp)
    rw [hs', ht']
    refine sameButUnspecified_of_answered h hs.toAnswered ht.toAnswered fun _ => ⟨?_, ?_, ?_⟩
    · rw [hs.chain, ht.chain, hpending, h.chain hp, h.bytes hp]
    · rw [hs.len, ht.len, h.len hp]
    · rw [hs.bytes, ht.bytes, hpending, h.bytes hp]
  · obtain ⟨s', hs', hs⟩ := exec_finish hp h.left
    obtain ⟨t', ht', ht⟩ := exec_finish (h.phase.symm.trans hp) h.right
    have hfinished : s'.PHASE = .finished := hs.phase.trans (by rw [hp]; rfl)
    have ht := ht.toAnswered
    rw [← h.finalChain hp] at ht
    rw [hs', ht']
    exact sameButUnspecified_of_answered h hs.toAnswered ht fun hr => (by rw [hfinished] at hr; cases hr)
  · have hc' : faultCause i t.PHASE = some c := h.phase ▸ hc
    rw [exec_fault hc, exec_fault hc']
    exact sameButUnspecified_of_answered h (State.raise_answered hc) (State.raise_answered hc')
      fun hr => ⟨h.chain hr, h.len hr, h.bytes hr⟩

/-- Settles O52: both states read the same bytes, so both are idle, both are held, or both run the same command. -/
theorem unspecifiedValuesAreUnobservable : Obligations.UnspecifiedValuesAreUnobservable := by
  intro s t h
  have hunread : s.unread = t.unread := by rw [State.unread, State.unread, h.cmd, h.cp]
  simp only [step, h.left, h.right, ← hunread]
  cases hd : decode s.unread with
  | idle => rfl
  | held => rfl
  | command i len =>
    obtain ⟨hi, -, -⟩ := decode_command hd
    exact exec_outcomesAgree hi h

end Sys2Proof.Machine
end

section
/-! PROOFS. Byte order (R31): where each byte of a word or of LEN stands in message words, the digest and the length suffix:
O23, O43, O44. -/

namespace Sys2Proof.Machine

theorem toNat_append_byte {n : Nat} (x : BitVec n) (b : Byte) : (x ++ b).toNat = 2 ^ 8 * x.toNat + b.toNat := by
  rw [BitVec.toNat_append, ← Nat.shiftLeft_add_eq_or_of_lt b.isLt, Nat.shiftLeft_eq, Nat.mul_comm]

theorem toNat_wordLe (b0 b1 b2 b3 : Byte) :
    (wordLe b0 b1 b2 b3).toNat = b0.toNat + 2 ^ 8 * b1.toNat + 2 ^ 16 * b2.toNat + 2 ^ 24 * b3.toNat := by
  rw [wordLe, toNat_append_byte, toNat_append_byte, toNat_append_byte]
  omega

/-- Settles O43: a message word is `wordLe` of its four bytes. -/
theorem messageWordsAreLittleEndian : Obligations.MessageWordsAreLittleEndian :=
  fun _ _ _ => toNat_wordLe _ _ _ _

theorem getElem?_le32 (v : Word) {m : Nat} (hm : m < 4) : (le32 v)[m]? = some (v.extractLsb' (8 * m) 8) := by
  interval_cases m <;> rfl

theorem getElem?_le64 (v : Len) {m : Nat} (hm : m < 8) : (le64 v)[m]? = some (v.extractLsb' (8 * m) 8) := by
  interval_cases m <;> rfl

/-- Byte m of word j in a row of words, each least significant byte first. -/
theorem getElem?_flatMap_le32 (vs : List Word) {j m : Nat} (hj : j < vs.length) (hm : m < 4) :
    (vs.flatMap le32)[4 * j + m]? = some ((vs.getD j 0).extractLsb' (8 * m) 8) := by
  induction vs generalizing j with
  | nil => cases hj
  | cons v vs ih =>
    rw [List.flatMap_cons]
    cases j with
    | zero =>
      rw [Nat.mul_zero, Nat.zero_add, List.getElem?_append_left hm, getElem?_le32 v hm, List.getD_cons_zero]
    | succ j =>
      have hskip : 4 * (j + 1) + m - 4 = 4 * j + m := by omega
      rw [List.getElem?_append_right (by rw [length_le32]; omega), length_le32, hskip, ih (Nat.lt_of_succ_lt_succ hj),
        List.getD_cons_succ]

/-- Settles O44: the digest is a row of four words. -/
theorem digestLayout : Obligations.DigestLayout := by
  intro a b c d
  have hrow : digestBytes a b c d = [a, b, c, d].flatMap le32 := by simp [digestBytes]
  refine ⟨rfl, length_digestBytes a b c d, fun j m hj hm => ?_⟩
  rw [hrow, getElem?_flatMap_le32 [a, b, c, d] hj hm]

/-- A message word whose four bytes are a word's, least significant first, is that word. -/
theorem refWord_eq_of_bytes {blk : List Byte} {k : Nat} {v : Word}
    (h : ∀ m, m < 4 → blk[4 * k + m]? = some (v.extractLsb' (8 * m) 8)) : refWord blk k = v := by
  have hbyte : ∀ m, m < 4 → blk.getD (4 * k + m) 0 = v.extractLsb' (8 * m) 8 := by
    intro m hm
    rw [List.getD_eq_getElem?_getD, h m hm, Option.getD_some]
  have h0 : blk.getD (4 * k) 0 = v.extractLsb' 0 8 := hbyte 0 (by decide)
  rw [refWord, h0, hbyte 1 (by decide), hbyte 2 (by decide), hbyte 3 (by decide), wordLe_of_bytes]

/-- A byte of a word of LEN is a byte of LEN. -/
theorem extractLsb'_byte_of_word (x : Len) (k : Nat) {m : Nat} (hm : m < 4) :
    (x.extractLsb' k 32).extractLsb' (8 * m) 8 = x.extractLsb' (k + 8 * m) 8 := by
  apply BitVec.eq_of_getLsbD_eq
  intro i hi
  have hin : 8 * m + i < 32 := by omega
  simp only [BitVec.getLsbD_extractLsb', decide_eq_true hi, decide_eq_true hin, Bool.true_and, Nat.add_assoc]

/-- The padded tail up to the length suffix fills whole blocks but for 8 bytes (R74). -/
theorem exists_padded_eq_append_le64 (pre : List Byte) (L0 : Len) (hpre : pre.length ≤ 63) :
    ∃ front, pre ++ padding pre.length L0 = front ++ le64 L0 ∧ front.length % 64 = 56 := by
  refine ⟨pre ++ 0x80 :: List.replicate (padlen pre.length - 1) 0x00, by simp [padding], ?_⟩
  simp only [List.length_append, List.length_cons, List.length_replicate, padlen]
  split <;> omega

/-- Settles O23: the last 8 bytes of the tail are `le64` of LEN, and words 14 and 15 of the last block are made of them. -/
theorem lengthSuffixLayout : Obligations.LengthSuffixLayout := by
  intro pre L0 tail hpre htail
  obtain ⟨front, hfront, hmod⟩ := exists_padded_eq_append_le64 pre L0 hpre
  have hlen : tail.length = front.length + 8 := by rw [htail, hfront, List.length_append, length_le64]
  have hsuffix : ∀ m, m < 8 → tail[tail.length - 8 + m]? = some (L0.extractLsb' (8 * m) 8) := by
    intro m hm
    rw [hlen, Nat.add_sub_cancel, htail, hfront, List.getElem?_append_right (Nat.le_add_right _ _), Nat.add_sub_cancel_left,
      getElem?_le64 L0 hm]
  have hblock : ∀ m, m < 8 → (tail.drop (tail.length - 64))[56 + m]? = some (L0.extractLsb' (8 * m) 8) := by
    intro m hm
    have hoffset : tail.length - 64 + (56 + m) = tail.length - 8 + m := by omega
    rw [List.getElem?_drop, hoffset, hsuffix m hm]
  refine ⟨by omega, hsuffix, refWord_eq_of_bytes fun m hm => ?_, refWord_eq_of_bytes fun m hm => ?_⟩
  · rw [extractLsb'_byte_of_word L0 0 hm, Nat.zero_add]
    exact hblock m (by omega)
  · have hoffset : 4 * 15 + m = 56 + (4 + m) := by omega
    have hbit : 32 + 8 * m = 8 * (4 + m) := by omega
    rw [extractLsb'_byte_of_word L0 32 hm, hoffset, hbit]
    exact hblock (4 + m) (by omega)

end Sys2Proof.Machine
end

section
/-! PROOFS. Runs over the command stream (R41, R54): the decoder reads a well-formed command back whatever follows it, so a
step executes it and leaves what follows unread. O50. -/

namespace Sys2Proof.Machine

/-- APPEND's four length bytes are read back as the number of data bytes that R52 admits. -/
theorem decode_encoded_append {data : List Byte} (hlen : data.length < 2 ^ 32) (rest : List Byte) :
    decode (commandBytes (.append data) ++ rest) = .command (.append data) (commandBytes (.append data)).length := by
  have hcount : (BitVec.ofNat 32 data.length).toNat = data.length := Nat.mod_eq_of_lt hlen
  have hlong : ¬ (data ++ rest).length < data.length := by rw [List.length_append]; omega
  rw [length_commandBytes_append]
  change decodeAppend (le32 (BitVec.ofNat 32 data.length) ++ data ++ rest) = _
  simp only [le32, List.cons_append, List.nil_append, decodeAppend, wordLe_of_bytes, hcount, if_neg hlong, List.take_left]

/-- A byte that R53 leaves reserved is read as itself. -/
theorem decode_reserved {op : Byte} (h : reservedOpcode op = true) (rest : List Byte) :
    decode (op :: rest) = .command (.illegal op) 1 := by
  obtain ⟨⟨h1, h2⟩, h3⟩ : (op ≠ 0x01 ∧ op ≠ 0x02) ∧ op ≠ 0x03 := by simpa [reservedOpcode] using h
  rw [decode, if_neg h1, if_neg h3, if_neg h2]

/-- Decoding an encoded command gives it back, with any bytes behind it. -/
theorem decode_commandBytes_append {i : Instr} (hwf : WellFormed i = true) (hi : isCommand i = true) (rest : List Byte) :
    decode (commandBytes i ++ rest) = .command i (commandBytes i).length := by
  rcases isCommand_cases hi with rfl | ⟨data, rfl⟩ | rfl | ⟨op, rfl⟩
  · rfl
  · exact decode_encoded_append (of_decide_eq_true hwf) rest
  · rfl
  · exact decode_reserved hwf rest

/-- A step between commands executes the command whose bytes come first. -/
theorem step_of_unread {i : Instr} {rest : List Byte} {s : State} (hw : s.work = none) (hwf : WellFormed i = true)
    (hi : isCommand i = true) (hu : s.unread = commandBytes i ++ rest) : step s = exec i s := by
  simp only [step, hw, hu, decode_commandBytes_append hwf hi rest]

/-- An answered command has consumed its own bytes and no others. -/
theorem Answered.unread {i : Instr} {r : Response} {s t : State} (h : Answered i r s t) {rest : List Byte}
    (hu : s.unread = commandBytes i ++ rest) : t.unread = rest := by
  have hdrop : t.unread = s.unread.drop (commandBytes i).length := by
    rw [State.unread, State.unread, List.drop_drop, h.cmd, h.cp]
  rw [hdrop, hu, List.drop_left]

/-- Settles O50, by induction on the list of commands. -/
theorem streamRunExecutesItsCommands : Obligations.StreamRunExecutesItsCommands := by
  intro commands rest s hw hall hu
  induction commands generalizing s with
  | nil => exact ⟨s, rfl, rfl, hu⟩
  | cons i commands ih =>
    obtain ⟨⟨hwf, hi⟩, hall⟩ := List.forall_mem_cons.mp hall
    rw [encodeAll, List.append_assoc] at hu
    obtain ⟨u, r, hexec, hans⟩ := exec_answers hi hw
    obtain ⟨t, hexecAll, hrun, hrest⟩ := ih u (hans.work.trans hw) hall (hans.unread hu)
    refine ⟨t, ?_, ?_, hrest⟩
    · rw [execAll, hexec, andThen_next, hexecAll]
    · rw [List.length_cons, runSteps, step_of_unread hw hwf hi hu, hexec, andThen_next, hrun]

end Sys2Proof.Machine
end

section
/-! PROOFS. The decoder and the encoder against each other (R50, R51, R53, R54, R61): O1 to O6. What the decoder reads is
well formed and its encoding comes first on the stream (`encoding_prefix_of_decode`); with `decode_commandBytes_append`, that
is all there is to know about a decoded command. -/

namespace Sys2Proof.Machine

/-- A step's index selects that step (R61). -/
theorem decodeStep_of_encode_micro {i : Instr} {k : BitVec 6} (h : encode i = .micro k) : decodeStep k = i := by
  cases i with
  | init => cases h
  | append data => cases h
  | finish => cases h
  | illegal op => cases h
  | _ => cases h; rfl

/-- Settles O1: on CMD a command is read back with nothing behind it, and a step is read back from its index. -/
theorem encodingRoundTrip : Obligations.EncodingRoundTrip := by
  intro i hwf
  cases hcode : encode i with
  | micro k => rw [decodeCode, decodeStep_of_encode_micro hcode]
  | command bytes =>
    have hi : isCommand i = true := by rw [isCommand, hcode]
    have hbytes : commandBytes i = bytes := by rw [commandBytes, hcode]
    have hread : decode bytes = .command i bytes.length := by
      simpa only [hbytes, List.append_nil] using decode_commandBytes_append hwf hi []
    simp only [decodeCode, hread, if_pos]

/-- Settles O2: it is the reading back of a well-formed command, proved for runs (O50). -/
theorem commandBytesAreSelfDelimiting : Obligations.CommandBytesAreSelfDelimiting :=
  fun _ rest hwf hi => decode_commandBytes_append hwf hi rest

/-- The length bytes of an APPEND of exactly the announced bytes are the ones that announced them. -/
theorem commandBytes_append_of_length {b0 b1 b2 b3 : Byte} {data : List Byte}
    (h : data.length = (wordLe b0 b1 b2 b3).toNat) : commandBytes (.append data) = 0x02 :: b0 :: b1 :: b2 :: b3 :: data := by
  have hword : BitVec.ofNat 32 data.length = wordLe b0 b1 b2 b3 := by rw [h, BitVec.ofNat_toNat, BitVec.setWidth_eq]
  rw [commandBytes, encode, hword, le32_wordLe]
  rfl

/-- An APPEND that is read is well formed, and its encoding comes first. -/
theorem encoding_prefix_of_decodeAppend {bytes : List Byte} {i : Instr} {len : Nat} (h : decodeAppend bytes = .command i len) :
    WellFormed i = true ∧ commandBytes i <+: 0x02 :: bytes := by
  unfold decodeAppend at h
  split at h
  case h_1 b0 b1 b2 b3 payload =>
    split at h
    · cases h
    · rename_i hlong
      cases h
      have hlen : (payload.take (wordLe b0 b1 b2 b3).toNat).length = (wordLe b0 b1 b2 b3).toNat :=
        List.length_take_of_le (Nat.le_of_not_lt hlong)
      refine ⟨decide_eq_true (by rw [hlen]; exact (wordLe b0 b1 b2 b3).isLt), ?_⟩
      rw [commandBytes_append_of_length hlen]
      exact (List.prefix_append_right_inj [0x02, b0, b1, b2, b3]).mpr (List.take_prefix _ payload)
  case h_2 => cases h

theorem reservedOpcode_of_ne {op : Byte} (h1 : op ≠ 0x01) (h2 : op ≠ 0x02) (h3 : op ≠ 0x03) : reservedOpcode op = true := by
  rw [reservedOpcode, bne_iff_ne.mpr h1, bne_iff_ne.mpr h2, bne_iff_ne.mpr h3]
  rfl

/-- Whatever command is read is well formed, and its encoding comes first. -/
theorem encoding_prefix_of_decode {bytes : List Byte} {i : Instr} {len : Nat} (h : decode bytes = .command i len) :
    WellFormed i = true ∧ commandBytes i <+: bytes := by
  cases bytes with
  | nil => cases h
  | cons op rest =>
    have hone : [op] <+: op :: rest := List.prefix_append [op] rest
    simp only [decode] at h
    split at h
    · rename_i hop; cases h; exact ⟨rfl, hop ▸ hone⟩
    · split at h
      · rename_i hop; cases h; exact ⟨rfl, hop ▸ hone⟩
      · split at h
        · rename_i hop; exact hop ▸ encoding_prefix_of_decodeAppend h
        · rename_i h1 h3 h2
          cases h
          exact ⟨reservedOpcode_of_ne h1 h2 h3, hone⟩

/-- Settles O3: the length is the encoding's, and the encoding comes first. -/
theorem decodeTakesExactlyTheEncoding : Obligations.DecodeTakesExactlyTheEncoding := by
  intro bytes i len h
  obtain ⟨hi, hlen, -⟩ := decode_command h
  obtain ⟨hwf, hprefix⟩ := encoding_prefix_of_decode h
  exact ⟨hwf, hi, by rw [hlen, ← List.prefix_iff_eq_take.mp hprefix], hlen⟩

/-- Settles O6: the command's own bytes decode to it whatever follows them. -/
theorem moreBytesNeverChangeACommand : Obligations.MoreBytesNeverChangeACommand := by
  intro bytes more i len h
  obtain ⟨hi, hlen, -⟩ := decode_command h
  obtain ⟨hwf, rest, rfl⟩ := encoding_prefix_of_decode h
  rw [List.append_assoc, decode_commandBytes_append hwf hi, hlen]

theorem decodeAppend_ne_idle (bytes : List Byte) : decodeAppend bytes ≠ .idle := by
  unfold decodeAppend
  split
  · split <;> nofun
  · nofun

/-- The bytes that R53 lists as reserved are those other than the three opcodes. -/
theorem reservedOpcode_of_range {op : Byte} (h : op = 0x00 ∨ 0x04 ≤ op.toNat) : reservedOpcode op = true := by
  rcases h with rfl | h
  · rfl
  · have hne : ∀ b : Byte, b.toNat < 0x04 → op ≠ b := by
      rintro b hb rfl
      omega
    exact reservedOpcode_of_ne (hne 0x01 (by decide)) (hne 0x02 (by decide)) (hne 0x03 (by decide))

/-- Settles O4, opcode by opcode. -/
theorem opcodeMapIsComplete : Obligations.OpcodeMapIsComplete := by
  intro op rest
  refine ⟨fun hop => hop ▸ rfl, ?_, fun hop => hop ▸ rfl, fun hop => decode_reserved (reservedOpcode_of_range hop) rest⟩
  rintro rfl
  change decodeAppend rest = _ ∨ ∃ data, decodeAppend rest = _
  cases hd : decodeAppend rest with
  | idle => exact absurd hd (decodeAppend_ne_idle rest)
  | held => exact .inl rfl
  | command i len =>
    obtain ⟨data, rfl, rfl, -⟩ := decodeAppend_command hd
    exact .inr ⟨data, rfl⟩

/-- Settles O5: each word is decoded by evaluation. -/
theorem writtenOutWordsDecode : Obligations.WrittenOutWordsDecode := by
  unfold Obligations.WrittenOutWordsDecode
  decide

end Sys2Proof.Machine
end

section
/-! PROOFS. One step from the decoder's answer (R54, R55, R57, R58) and from the microcode address (R61): O7, O8, O11, O12,
O25. -/

namespace Sys2Proof.Machine

/-- Settles O11, from the branch of `step` between commands. -/
theorem stepRunsTheDecodedCommand : Obligations.StepRunsTheDecodedCommand := by
  intro s i len hw hd
  simp only [step, hw, hd]

theorem step_of_decode_held {s : State} (hw : s.work = none) (hd : decode s.unread = .held) : step s = .fault .held := by
  simp only [step, hw, hd]

/-- Settles O8: there is no unread byte. -/
theorem noStepWhenEverythingIsConsumed : Obligations.NoStepWhenEverythingIsConsumed := by
  rintro s ⟨hcp, hw⟩
  have hunread : s.unread = [] := List.drop_eq_nil_of_le (Nat.le_of_eq hcp.symm)
  simp only [step, hw, hunread, decode]

theorem decodeAppend_of_short_header {bytes : List Byte} (h : bytes.length < 4) : decodeAppend bytes = .held := by
  unfold decodeAppend
  split
  · simp only [List.length_cons] at h; omega
  · rfl

theorem decode_append_held {b0 b1 b2 b3 : Byte} {payload : List Byte} (h : payload.length < (wordLe b0 b1 b2 b3).toNat) :
    decode (0x02 :: b0 :: b1 :: b2 :: b3 :: payload) = .held :=
  if_pos h

theorem decode_append_arrived {b0 b1 b2 b3 : Byte} {payload : List Byte} (h : (wordLe b0 b1 b2 b3).toNat ≤ payload.length) :
    decode (0x02 :: b0 :: b1 :: b2 :: b3 :: payload) =
      .command (.append (payload.take (wordLe b0 b1 b2 b3).toNat)) (5 + (wordLe b0 b1 b2 b3).toNat) :=
  if_neg (Nat.not_lt_of_le h)

/-- What the host sends stands behind the bytes it has sent before, while CP is inside CMD. -/
theorem State.unread_hostSend {s : State} (h : s.unread ≠ []) (more : List Byte) :
    (s.hostSend more).unread = s.unread ++ more := by
  have hcp : s.CP ≤ s.CMD.length := Nat.le_of_not_le fun hle => h (List.drop_eq_nil_of_le hle)
  exact List.drop_append_of_le_length hcp

/-- Settles O7: held while bytes are missing; once the host has sent them the decoder reads the whole APPEND. -/
theorem heldUntilTheWholeAppendArrived : Obligations.HeldUntilTheWholeAppendArrived := by
  intro s hw
  refine ⟨fun rest hu hshort => ?_, fun b0 b1 b2 b3 payload hu hshort => ⟨?_, fun more => ?_⟩⟩
  · exact step_of_decode_held hw (hu ▸ decodeAppend_of_short_header hshort)
  · exact step_of_decode_held hw (hu ▸ decode_append_held hshort)
  · have hsent : (s.hostSend more).unread = 0x02 :: b0 :: b1 :: b2 :: b3 :: (payload ++ more) := by
      rw [State.unread_hostSend (hu ▸ List.cons_ne_nil _ _), hu]
      rfl
    rw [← List.length_append]
    refine ⟨fun hstill => ?_, fun harrived => ?_⟩
    · exact step_of_decode_held hw (hsent ▸ decode_append_held hstill)
    · exact stepRunsTheDecodedCommand _ _ _ hw (hsent ▸ decode_append_arrived harrived)

/-- Inside a COMPRESS a step of the engine is the selected STEP and the loop's move, R98. -/
theorem step_of_exec_decodeStep {s t : State} {w : Work} (hw : s.work = some w) (h : exec (decodeStep w.i) s = .next t) :
    step s = .next (afterStep t) := by
  simp only [step, hw, h, andThen_next]

/-- Settles O12: the selected STEP keeps the index, which then decides what the loop does. -/
theorem stepInsideCompressRunsTheIndexedStep : Obligations.StepInsideCompressRunsTheIndexedStep := by
  intro s w hw
  have hexec := exec_decodeStep w.i s
  rw [stepMeaning_eq_stepOp, stepOp_next _ _ _ _ hw] at hexec
  refine ⟨_, _, hexec, rfl, rfl, fun hi => ?_, fun hi => ?_⟩
  · exact (step_of_exec_decodeStep hw hexec).trans (congrArg _ (if_neg hi))
  · exact (step_of_exec_decodeStep hw hexec).trans (congrArg _ (if_pos hi))

/-- Settles O25: the meaning is the fault entry, and a byte that is none of the three opcodes is read as ILLEGAL. -/
theorem reservedByteRaisesIllegalCommand : Obligations.ReservedByteRaisesIllegalCommand := by
  intro op s
  refine ⟨s.raise .illegalCommand 1, rfl, rfl, rfl, rfl, rfl, rfl, rfl, fun _ => rfl, rfl, rfl, rfl, rfl, rfl, rfl, ?_⟩
  intro rest hw h1 h2 h3 hu
  exact stepRunsTheDecodedCommand s _ _ hw (hu ▸ decode_reserved (reservedOpcode_of_ne h1 h2 h3) rest)

end Sys2Proof.Machine
end

section
/-! PROOFS. The text form (R59, R60): what a line encodes as, and an escaped text read back. O9, O10. -/

namespace Sys2Proof.Machine

/-- An APPEND line is the APPEND command of its operand's bytes. -/
theorem AsmLine.encode_append (o : AsmOperand) : (AsmLine.append o).encode = commandBytes (.append o.bytes) := rfl

/-- Settles O9, line by line; DIGEST is the three commands by its definition. -/
theorem textFormEncodesCommands : Obligations.TextFormEncodesCommands := by
  refine ⟨rfl, rfl, fun _ => rfl, fun o rest => ⟨?_, ?_⟩⟩
  · rw [assemble, AsmLine.encode_append, encodeAll, encodeAll, List.append_nil]
  · rfl

/-- A character that needs no escape stands for itself. -/
theorem readText_cons_plain {c : Char} (hquote : c ≠ quoteChar) (hescape : c ≠ escapeChar) (hascii : c.toNat < 128)
    (cs : List Char) : readText (c :: cs) = (readText cs).map (fun r => (c :: r.1, r.2)) := by
  cases cs with
  | nil => simp only [readText, if_neg hquote, Option.map_none]
  | cons d rest => rw [readText, if_neg hquote, if_neg hescape, if_pos hascii]

/-- A quote or a backslash is read after a backslash. -/
theorem readText_cons_escaped {c : Char} (h : c = quoteChar ∨ c = escapeChar) (cs : List Char) :
    readText (escapeChar :: c :: cs) = (readText cs).map (fun r => (c :: r.1, r.2)) := by
  have hc : (decide (c = quoteChar) || decide (c = escapeChar)) = true := by simpa using h
  rw [readText, if_neg (by decide), if_pos rfl, if_pos hc]

/-- The closing quote ends the text. -/
theorem readText_quote (tail : List Char) : readText (quoteChar :: tail) = some ([], tail) := by
  cases tail <;> rfl

/-- An escaped ASCII text is read back up to its closing quote. -/
theorem readText_escapeText (chars : List Char) (hascii : ∀ c ∈ chars, c.toNat < 128) (tail : List Char) :
    readText (escapeText chars ++ quoteChar :: tail) = some (chars, tail) := by
  induction chars with
  | nil => exact readText_quote tail
  | cons c cs ih =>
    obtain ⟨hc, hcs⟩ := List.forall_mem_cons.mp hascii
    by_cases hspecial : c = quoteChar ∨ c = escapeChar
    · have hwritten : escapeText (c :: cs) = escapeChar :: c :: escapeText cs := by simp [escapeText, hspecial]
      rw [hwritten, List.cons_append, List.cons_append, readText_cons_escaped hspecial, ih hcs, Option.map_some]
    · have hwritten : escapeText (c :: cs) = c :: escapeText cs := by simp [escapeText, hspecial]
      obtain ⟨hquote, hescape⟩ := not_or.mp hspecial
      rw [hwritten, List.cons_append, readText_cons_plain hquote hescape hc, ih hcs, Option.map_some]

/-- A text that ends its line is a whole operand. -/
theorem readOperand_text {body chars tail : List Char} (h : readText body = some (chars, tail)) (htail : lineEnds tail = true)
    (hlen : chars.length < 2 ^ 32) : readOperand (' ' :: quoteChar :: body) = some (.text chars) := by
  have hskip : skipBlanks (' ' :: quoteChar :: body) = quoteChar :: body := rfl
  have hfits : (lineEnds tail && decide ((AsmOperand.text chars).length < 2 ^ 32)) = true := by
    rw [htail, Bool.true_and]
    exact decide_eq_true hlen
  cases body with
  | nil => cases h
  | cons d rest => simp only [readOperand, hskip, if_true, h, Option.map_some, hfits]

/-- After the mnemonic APPEND and a blank the rest of the line is the operand. -/
theorem readLine_append (cs : List Char) :
    readLine (['A', 'P', 'P', 'E', 'N', 'D', ' '] ++ cs) = (readOperand (' ' :: cs)).map (fun o => [.append o]) := rfl

/-- An escaped ASCII text behind APPEND is read back, whatever ends the line. -/
theorem readLine_append_text {chars tail : List Char} (hascii : ∀ c ∈ chars, c.toNat < 128) (hlen : chars.length < 2 ^ 32)
    (htail : lineEnds tail = true) :
    readLine (['A', 'P', 'P', 'E', 'N', 'D', ' ', quoteChar] ++ escapeText chars ++ quoteChar :: tail) =
      some [.append (.text chars)] := by
  have hoperand := readOperand_text (readText_escapeText chars hascii tail) htail hlen
  rw [List.append_assoc]
  exact (readLine_append _).trans (congrArg (Option.map _) hoperand)

/-- Settles O10: the line is read with a comment and with nothing behind the text, and its bytes are the text's. -/
theorem textLinesReadBack : Obligations.TextLinesReadBack := by
  intro chars comment hascii hlen
  refine ⟨readLine_append_text hascii hlen rfl, readLine_append_text hascii hlen rfl, ?_⟩
  simp only [assemble, AsmLine.encode, AsmOperand.bytes, List.length_map, List.append_nil]

end Sys2Proof.Machine
end

section
/-! PROOFS. The three host commands (R70 to R74, R76): O15, O17, O18, O19, O21, O22. What each leaves is in `InitDone`,
`AppendDone` and `FinishDone`; here it is read off in the words of the rules. -/

namespace Sys2Proof.Machine

/-- Settles O15, from what INIT leaves. -/
theorem initStartsANewMessage : Obligations.InitStartsANewMessage := by
  intro s
  obtain ⟨t, ht, hdone⟩ := exec_init s
  obtain ⟨ha, hb, hc, hd⟩ := Chain.mk.inj hdone.chain
  exact ⟨t, ht, ha, hb, hc, hd, hdone.len, State.pending_of_len_zero hdone.len, hdone.phase, hdone.rsp, hdone.cp, hdone.cmd,
    hdone.work, hdone.mark.trans (Bool.or_false _)⟩

/-- Settles O22, on the two branches of `padlen`. -/
theorem paddingLengthFillsOneOrTwoBlocks : Obligations.PaddingLengthFillsOneOrTwoBlocks := by
  intro n hn
  unfold padlen
  split <;> omega

/-! ### APPEND -/

/-- Settles O17: while READY it is what APPEND leaves, in the two other phases the misuse entry. -/
theorem appendAbsorbsWholeBlocks : Obligations.AppendAbsorbsWholeBlocks := by
  intro data s hw
  refine ⟨fun hp => ?_, fun hp => whenReady_misuse (by rw [hp]; rfl), fun hp => whenReady_misuse (by rw [hp]; rfl)⟩
  obtain ⟨t, ht, hdone⟩ := exec_append data hp hw
  exact ⟨t, ht, hdone.chain, hdone.bytes, bitLength_eq_ofNat data.length ▸ hdone.len, hdone.phase.trans hp, hdone.rsp,
    length_commandBytes_append data ▸ hdone.cp, hdone.cmd, hdone.work.trans hw, hdone.mark.trans (Bool.or_false _)⟩

theorem State.getElem?_pendingBytes (s : State) {j : Nat} (hj : j < s.pending) : s.pendingBytes[j]? = some (s.byteAt j) := by
  rw [State.pendingBytes, List.getElem?_map, List.getElem?_range hj, Option.map_some]

/-- Settles O18: no whole block means no COMPRESS, and the pending bytes afterwards are those before and the data. -/
theorem shortAppendOnlyBuffers : Obligations.ShortAppendOnlyBuffers := by
  intro data s hp hw hshort
  obtain ⟨t, ht, hdone⟩ := exec_append data hp hw
  have hblocks : (s.pending + data.length) / 64 = 0 := Nat.div_eq_of_lt hshort
  have hpending : t.pending = s.pending + data.length := by
    rw [State.pending_of_len_add hdone.len, Nat.mod_eq_of_lt hshort]
  have hchain : t.chain = s.chain := by rw [hdone.chain, hblocks, refBlocks]
  have hbytes : t.pendingBytes = s.pendingBytes ++ data := by rw [hdone.bytes, hblocks, Nat.mul_zero, List.drop_zero]
  obtain ⟨ha, hb, hc, hd⟩ := Chain.mk.inj hchain
  refine ⟨t, ht, ha, hb, hc, hd, hdone.phase.trans hp, fun j hj => ?_, fun j hj => ?_, hpending, fun hnil => ?_⟩
  · apply Option.some.inj
    rw [← t.getElem?_pendingBytes (by omega), hbytes, List.getElem?_append_left (by rwa [s.length_pendingBytes]),
      s.getElem?_pendingBytes hj]
  · apply Option.some.inj
    rw [← t.getElem?_pendingBytes (by omega), hbytes, List.getElem?_append_right (by rw [s.length_pendingBytes]; omega),
      s.length_pendingBytes, Nat.add_sub_cancel_left, List.getElem?_eq_getElem hj]
  · rw [hdone.len, hnil]
    exact BitVec.add_zero _

/-- Settles O19, from what adding a length in bits does to LEN's fields. -/
theorem lenCountsBitsModulo2To64 : Obligations.LenCountsBitsModulo2To64 := by
  refine ⟨fun L hL => ?_, fun s => ?_, fun data s hp hw => ?_⟩
  · rw [toNat_bitLength]
    omega
  · obtain ⟨t, ht, hdone⟩ := exec_init s
    obtain ⟨-, hbits⟩ := (absorbed_nil_of_initDone hdone).len
    exact ⟨t, ht, hbits⟩
  · obtain ⟨t, ht, hdone⟩ := exec_append data hp hw
    refine ⟨t, ht, ?_, State.pending_of_len_add hdone.len, State.lenBits_of_len_add hdone.len,
      hdone.mark.trans (Bool.or_false _)⟩
    rw [hdone.len, BitVec.toNat_add, toNat_bitLength, Nat.add_mod_mod]

/-! ### FINISH -/

/-- The pending bytes, the padding and the length fill one block up to pending count 55 and two from 56 on (R74). -/
theorem pending_add_padlen {n : Nat} (hn : n < 64) : n + padlen n + 8 = if n ≤ 55 then 64 else 128 := by
  obtain ⟨-, -, -, hone, htwo⟩ := paddingLengthFillsOneOrTwoBlocks n (Nat.le_of_lt_succ hn)
  split
  · exact (hone ‹_›).2
  · exact (htwo (by omega)).2

/-- Settles O21: while READY the tail is the pending bytes and `padding`, in the two other phases it is the misuse entry. -/
theorem finishEmitsTheDigestOfThePaddedTail : Obligations.FinishEmitsTheDigestOfThePaddedTail := by
  intro s hw
  refine ⟨fun hp => ?_, fun hp => whenReady_misuse (by rw [hp]; rfl), fun hp => whenReady_misuse (by rw [hp]; rfl)⟩
  obtain ⟨t, ht, hdone⟩ := exec_finish hp hw
  have hfill := pending_add_padlen s.pending_lt
  have hblocks : (s.pending + padlen s.pending + 8) / 64 = if s.pending ≤ 55 then 1 else 2 := by
    rw [hfill]
    split <;> rfl
  refine ⟨t, s.pendingBytes ++ padding s.pending s.LEN, ht, rfl, ?_, ?_, hdone.phase.trans (by rw [hp]; rfl), hdone.cp,
    hdone.cmd, hdone.work.trans hw, hdone.mark.trans (Bool.or_false _)⟩
  · rw [List.length_append, s.length_pendingBytes, length_padding s.pending_lt, ← Nat.add_assoc, hfill]
  · rw [hdone.rsp, Chain.response_bytes, State.finalChain, hblocks]

end Sys2Proof.Machine
end

section
/-! PROOFS. The message in pieces (R73) and what the three commands compute on the stream (R80): O20, O49. Appending twice is
appending once (`AppendDone.sameMessage_trans`), so any pieces leave the state their concatenation leaves. -/

namespace Sys2Proof.Machine

/-- The state R73 compares: A to D, LEN, the pending bytes and PHASE. -/
structure SameMessage (s t : State) : Prop where
  chain : s.chain = t.chain
  len : s.LEN = t.LEN
  bytes : s.pendingBytes = t.pendingBytes
  phase : s.PHASE = t.PHASE

theorem SameMessage.trans {s t u : State} (h : SameMessage s t) (k : SameMessage t u) : SameMessage s u :=
  ⟨h.chain.trans k.chain, h.len.trans k.len, h.bytes.trans k.bytes, h.phase.trans k.phase⟩

/-- FINISH reads nothing else. -/
theorem SameMessage.finalChain {s t : State} (h : SameMessage s t) : s.finalChain = t.finalChain := by
  rw [State.finalChain, State.finalChain, pending_eq_of_len_eq h.len, h.chain, h.len, h.bytes]

/-- R21 reads nothing else. -/
theorem SameMessage.absorbed {msg : List Byte} {s t : State} (h : SameMessage s t) (ht : Absorbed msg t) : Absorbed msg s where
  phase := h.phase.trans ht.phase
  count := by rw [pending_eq_of_len_eq h.len]; exact ht.count
  len := by rw [State.lenBits, h.len]; exact ht.len
  bytes := h.bytes.trans ht.bytes
  chain := h.chain.trans ht.chain

/-- Appending nothing changes nothing of the message. -/
theorem AppendDone.sameMessage_nil {s t : State} (h : AppendDone [] s t) : SameMessage s t := by
  have hblocks : (s.pending + ([] : List Byte).length) / 64 = 0 := Nat.div_eq_of_lt s.pending_lt
  refine ⟨?_, ?_, ?_, h.phase.symm⟩
  · rw [h.chain, hblocks, refBlocks]
  · rw [h.len]; exact (BitVec.add_zero _).symm
  · rw [h.bytes, hblocks, List.append_nil, Nat.mul_zero, List.drop_zero]

/-- Appending twice is appending the concatenation once. -/
theorem AppendDone.sameMessage_trans {first more : List Byte} {s t u v : State} (h1 : AppendDone first s t)
    (h2 : AppendDone more t u) (h : AppendDone (first ++ more) s v) : SameMessage u v := by
  have hstream : (s.pendingBytes ++ first).length = s.pending + first.length := by
    rw [List.length_append, s.length_pendingBytes]
  have hpending : t.pending = (s.pending + first.length) % 64 := State.pending_of_len_add h1.len
  refine ⟨?_, ?_, ?_, ?_⟩
  · rw [h2.chain, h1.chain, h1.bytes, hpending, ← hstream, refBlocks_resume, hstream, h.chain, List.length_append,
      List.append_assoc, Nat.add_assoc]
  · rw [h2.len, h1.len, h.len, List.length_append, bitLength_add, BitVec.add_assoc]
  · rw [h2.bytes, h1.bytes, hpending, ← hstream, drop_whole_blocks_append, List.drop_drop, whole_blocks_add, hstream, h.bytes,
      List.length_append, List.append_assoc, Nat.add_assoc]
  · exact h2.phase.trans (h1.phase.trans h.phase.symm)

/-- Appending pieces one by one leaves the message that appending their concatenation leaves, with an OK for each. -/
theorem execAll_append_pieces (pieces : List (List Byte)) {s u : State} (hp : s.PHASE = .ready) (hw : s.work = none)
    (h : AppendDone pieces.flatten s u) :
    ∃ t, execAll (pieces.map .append) s = .next t ∧ SameMessage t u ∧ t.work = none ∧
      t.RSP = s.RSP ++ List.replicate pieces.length 0x00 := by
  induction pieces generalizing s u with
  | nil => exact ⟨s, rfl, h.sameMessage_nil, hw, (List.append_nil _).symm⟩
  | cons piece pieces ih =>
    obtain ⟨s1, hexec, h1⟩ := exec_append piece hp hw
    have hp1 : s1.PHASE = .ready := h1.phase.trans hp
    have hw1 : s1.work = none := h1.work.trans hw
    obtain ⟨u1, -, hrest⟩ := exec_append pieces.flatten hp1 hw1
    have hu1 : SameMessage u1 u := h1.sameMessage_trans hrest h
    obtain ⟨t, ht, hsame, hwork, hrsp⟩ := ih hp1 hw1 hrest
    refine ⟨t, ?_, hsame.trans hu1, hwork, ?_⟩
    · rw [List.map_cons, execAll, hexec, andThen_next, ht]
    · rw [hrsp, h1.rsp, List.append_assoc]
      rfl

/-- Settles O20: the pieces and their concatenation leave one message, and FINISH emits that message's final chain. -/
theorem chunkInvariance : Obligations.ChunkInvariance := by
  intro pieces s hp hw
  obtain ⟨u, hu, hdone⟩ := exec_append pieces.flatten hp hw
  obtain ⟨t, ht, hsame, htw, -⟩ := execAll_append_pieces pieces hp hw hdone
  have hup : u.PHASE = .ready := hdone.phase.trans hp
  obtain ⟨t', ht', htdone⟩ := exec_finish (hsame.phase.trans hup) htw
  obtain ⟨u', hu', hudone⟩ := exec_finish hup (hdone.work.trans hw)
  refine ⟨t, u, ht, hu, hsame.chain, hsame.len, hsame.bytes, hsame.phase, t', u', u.finalChain.digest, ht', hu',
    length_digestBytes _ _ _ _, ?_, hudone.rsp⟩
  rw [htdone.rsp, hsame.finalChain, Chain.response_bytes]

theorem execAll_append_of_next {first more : List Instr} {s t : State} (h : execAll first s = .next t) :
    execAll (first ++ more) s = execAll more t := by
  induction first generalizing s with
  | nil => cases h; rfl
  | cons i first ih =>
    obtain ⟨u, hu, hrest⟩ := andThen_eq_next h
    rw [List.cons_append, execAll, hu, andThen_next, ih hrest]

/-- INIT, the pieces one by one and FINISH answer OK for each but the last, and then the digest of the concatenation. -/
theorem execAll_message (pieces : List (List Byte)) {s : State} (hw : s.work = none) :
    ∃ t, execAll (.init :: (pieces.map .append ++ [.finish])) s = .next t ∧ t.PHASE = .finished ∧
      t.RSP = s.RSP ++ (List.replicate (pieces.length + 1) 0x00 ++ 0x01 :: md5 pieces.flatten) := by
  obtain ⟨s1, hinit, h1⟩ := exec_init s
  have hw1 : s1.work = none := h1.work.trans hw
  obtain ⟨u, -, hdone⟩ := exec_append pieces.flatten h1.phase hw1
  obtain ⟨s2, happends, hsame, hw2, hrsp2⟩ := execAll_append_pieces pieces h1.phase hw1 hdone
  have hmsg : Absorbed pieces.flatten s2 :=
    hsame.absorbed (absorbed_append_of_appendDone (absorbed_nil_of_initDone h1) hdone)
  obtain ⟨t, hfinish, h3⟩ := exec_finish hmsg.phase hw2
  refine ⟨t, ?_, h3.phase.trans (by rw [hmsg.phase]; rfl), ?_⟩
  · rw [execAll, hinit, andThen_next, execAll_append_of_next happends, execAll, hfinish, andThen_next, execAll]
  · rw [h3.rsp, Chain.response_bytes, digest_finalChain hmsg, hrsp2, h1.rsp, List.append_assoc, List.append_assoc]
    rfl

/-- Settles O49: a run over the stream is the execution of its commands, and that is `execAll_message`. -/
theorem streamComputesTheMessageDigest : Obligations.StreamComputesTheMessageDigest := by
  intro pieces rest s hw hlen hu
  have hwf : ∀ i ∈ Instr.init :: (pieces.map .append ++ [.finish]), WellFormed i = true ∧ isCommand i = true := by
    intro i hi
    simp only [List.mem_cons, List.mem_append, List.mem_map, List.not_mem_nil, or_false] at hi
    rcases hi with rfl | ⟨piece, hpiece, rfl⟩ | rfl
    · exact ⟨rfl, rfl⟩
    · exact ⟨decide_eq_true (hlen piece hpiece), rfl⟩
    · exact ⟨rfl, rfl⟩
  obtain ⟨t, hexec, hrun, hrest⟩ := streamRunExecutesItsCommands _ rest s hw hwf hu
  obtain ⟨t', hexec', hphase, hrsp⟩ := execAll_message pieces hw
  cases hexec.symm.trans hexec'
  have hcount : (Instr.init :: (pieces.map .append ++ [.finish])).length = pieces.length + 2 := by
    rw [List.length_cons, List.length_append, List.length_map]
    rfl
  exact ⟨t, hcount ▸ hrun, hrest, hphase, hrsp⟩

end Sys2Proof.Machine
end

section
/-! PROOFS. The words and functions of COMPRESS (R90 to R93, R99) and its 64 steps (R97, R100 to R163): O31 to O37, O41, O42. -/

namespace Sys2Proof.Machine

/-! ### The steps -/

/-- `stepOp_next` in the words of R97. -/
theorem stepOp_moves (f : Word → Word → Word → Word) (k r : Nat) (T : Word) {s : State} {w : Work} (hw : s.work = some w) :
    stepOp f k r T s = .next (s.setWork (some
      ⟨w.d, w.b + rotl32 (w.a + f w.b w.c w.d + s.msgWord k + T) r, w.b, w.c, w.i⟩)) :=
  stepOp_next f k r T hw

/-- Settles O37: the index selects the shared step at its table entries, and the function by round is `refFun`. -/
theorem stepsFollowTheTables : Obligations.StepsFollowTheTables := by
  rintro i s w f hw rfl
  rw [exec_decodeStep, stepMeaning_eq_stepOp]
  exact stepOp_moves _ _ _ _ hw

/-- Settles O31: steps of round 1, each the shared step at the constants its own rule writes out. -/
theorem steps0To10 : Obligations.Steps0To10 := by
  intro s w hw
  and_intros <;> exact stepOp_moves _ _ _ _ hw

/-- Settles O32: steps of rounds 1 and 2, each the shared step at the constants its own rule writes out. -/
theorem steps11To21 : Obligations.Steps11To21 := by
  intro s w hw
  and_intros <;> exact stepOp_moves _ _ _ _ hw

/-- Settles O33: steps of round 2 and the first of round 3, each the shared step at the constants its own rule writes out. -/
theorem steps22To32 : Obligations.Steps22To32 := by
  intro s w hw
  and_intros <;> exact stepOp_moves _ _ _ _ hw

/-- Settles O34: steps of round 3, each the shared step at the constants its own rule writes out. -/
theorem steps33To43 : Obligations.Steps33To43 := by
  intro s w hw
  and_intros <;> exact stepOp_moves _ _ _ _ hw

/-- Settles O35: steps of rounds 3 and 4, each the shared step at the constants its own rule writes out. -/
theorem steps44To53 : Obligations.Steps44To53 := by
  intro s w hw
  and_intros <;> exact stepOp_moves _ _ _ _ hw

/-- Settles O36: steps of round 4, each the shared step at the constants its own rule writes out. -/
theorem steps54To63 : Obligations.Steps54To63 := by
  intro s w hw
  and_intros <;> exact stepOp_moves _ _ _ _ hw

/-! ### The round functions bit by bit -/

theorem getLsbD_roundF (x y z : Word) {k : Nat} (hk : k < 32) :
    (roundF x y z).getLsbD k = if x.getLsbD k then y.getLsbD k else z.getLsbD k := by
  simp only [roundF, BitVec.getLsbD_or, BitVec.getLsbD_and, BitVec.getLsbD_not, hk, decide_true, Bool.true_and]
  cases x.getLsbD k <;> simp

/-- G is F with the selector last. -/
theorem roundG_eq_roundF (x y z : Word) : roundG x y z = roundF z x y := by
  rw [roundG, roundF, BitVec.and_comm x, BitVec.and_comm y]

theorem getLsbD_roundH (x y z : Word) (k : Nat) :
    (roundH x y z).getLsbD k = ((x.getLsbD k ^^ y.getLsbD k) ^^ z.getLsbD k) := by
  rw [roundH, BitVec.getLsbD_xor, BitVec.getLsbD_xor]

theorem getLsbD_roundI (x y z : Word) {k : Nat} (hk : k < 32) :
    (roundI x y z).getLsbD k = (y.getLsbD k ^^ (x.getLsbD k || !z.getLsbD k)) := by
  simp only [roundI, BitVec.getLsbD_xor, BitVec.getLsbD_or, BitVec.getLsbD_not, hk, decide_true, Bool.true_and]

theorem roundF_zero (y z : Word) : roundF 0#32 y z = z := by
  rw [roundF, BitVec.zero_and, BitVec.zero_or, BitVec.not_zero, BitVec.allOnes_and]

theorem roundF_allOnes (y z : Word) : roundF (BitVec.allOnes 32) y z = y := by
  rw [roundF, BitVec.allOnes_and, BitVec.not_allOnes, BitVec.zero_and, BitVec.or_zero]

theorem roundH_self (x z : Word) : roundH x x z = z := by
  rw [roundH, BitVec.xor_self, BitVec.zero_xor]

theorem roundI_zero (x y : Word) : roundI x y 0#32 = ~~~y := by
  rw [roundI, BitVec.not_zero, BitVec.or_allOnes, BitVec.xor_allOnes]

theorem roundI_zero_allOnes (y : Word) : roundI 0#32 y (BitVec.allOnes 32) = y := by
  rw [roundI, BitVec.not_allOnes, BitVec.or_zero, BitVec.xor_zero]

/-- Settles O41: the bits and the corner cases of F, H and I from their lemmas, those of G as F's. -/
theorem roundFunctionsBitByBit : Obligations.RoundFunctionsBitByBit := by
  intro x y z
  refine ⟨fun k hk => ⟨getLsbD_roundF x y z hk, ?_, getLsbD_roundH x y z k, getLsbD_roundI x y z hk⟩,
    roundF_zero y z, roundF_allOnes y z, ?_, ?_, roundH_self x z, roundI_zero x y, roundI_zero_allOnes y⟩
  · rw [roundG_eq_roundF]
    exact getLsbD_roundF z x y hk
  · rw [roundG_eq_roundF]
    exact roundF_zero x y
  · rw [roundG_eq_roundF]
    exact roundF_allOnes x y

/-! ### Word arithmetic -/

/-- A rotation moves bit p to bit p + r, or past the top to bit p + r - 32. -/
theorem getLsbD_rotl32 (x : Word) {r p : Nat} (hr : r ≤ 31) (hp : p < 32) :
    (rotl32 x r).getLsbD ((p + r) % 32) = x.getLsbD p := by
  rw [rotl32, BitVec.getLsbD_or, BitVec.getLsbD_shiftLeft, BitVec.getLsbD_ushiftRight]
  by_cases hwrap : p + r < 32
  · have hout : x.getLsbD (32 - r + (p + r)) = false := BitVec.getLsbD_of_ge _ _ (by omega)
    simp [Nat.mod_eq_of_lt hwrap, hwrap, hout]
  · have hpos : (p + r) % 32 = p + r - 32 := by omega
    have hlow : p + r - 32 < r := by omega
    have hback : 32 - r + (p + r - 32) = p := by omega
    simp [hpos, hlow, hback]

/-- Settles O42, from the library's rules of addition and complement and the bits of a rotation. -/
theorem wordArithmetic : Obligations.WordArithmetic :=
  fun x y => ⟨BitVec.toNat_add x y, BitVec.toNat_not, fun _ _ _ => getLsbD_rotl32 x⟩

end Sys2Proof.Machine
end

section
/-! PROOFS. The unrolled spelling (R164) against the rotating form (R97): O40. The bracket order of step i turns one into the
other, step by step. -/

namespace Sys2Proof.Machine

/-- Where a group of four begins the bracket order is `[ABCD]`. -/
theorem bracketOrder_of_group_start {i : Nat} (h : i % 4 = 0) (w : Chain) : bracketOrder i w = w := by
  simp only [bracketOrder, h]

/-- One step commutes with reading the registers in bracket order. -/
theorem refStep_bracketOrder (blk : List Byte) (i : Nat) (w : Chain) :
    refStep blk i (bracketOrder i w) = bracketOrder (i + 1) (unrolledStep blk i w) := by
  have hcases : (i % 4 = 0 ∧ (i + 1) % 4 = 1) ∨ (i % 4 = 1 ∧ (i + 1) % 4 = 2) ∨ (i % 4 = 2 ∧ (i + 1) % 4 = 3) ∨
      (i % 4 = 3 ∧ (i + 1) % 4 = 0) := by omega
  rcases hcases with ⟨hi, hnext⟩ | ⟨hi, hnext⟩ | ⟨hi, hnext⟩ | ⟨hi, hnext⟩
  all_goals simp only [bracketOrder, unrolledStep, hi, hnext, refStep]

/-- Any run of steps commutes with it, from any step on. -/
theorem refSteps_bracketOrder (blk : List Byte) (i n : Nat) (w : Chain) :
    refSteps blk i n (bracketOrder i w) = bracketOrder (i + n) (unrolledSteps blk i n w) := by
  induction n generalizing i w with
  | zero => rfl
  | succ n ih => rw [refSteps, unrolledSteps, refStep_bracketOrder, ih, Nat.add_right_comm, Nat.add_assoc]

/-- Settles O40: from step 0 the bracket order before the run is `[ABCD]`, and so it is after every group of four. -/
theorem unrolledFormAgrees : Obligations.UnrolledFormAgrees := by
  intro blk h
  have hsteps : ∀ n, refSteps blk 0 n h = bracketOrder n (unrolledSteps blk 0 n h) := by
    intro n
    have hrun := refSteps_bracketOrder blk 0 n h
    rwa [bracketOrder_of_group_start rfl, Nat.zero_add] at hrun
  refine ⟨hsteps, fun m => ?_⟩
  rw [hsteps, bracketOrder_of_group_start (Nat.mul_mod_right 4 m)]

end Sys2Proof.Machine
end

section
/-! PROOFS. Faults (R182, R183, R192): every fault is the one fault entry `State.raise` of the whole command (`exec_fault`), and a
command that sets the mark was answered by one. O24, O26, O27. -/

namespace Sys2Proof.Machine

/-- APPEND and FINISH raise by PHASE alone. -/
theorem faultCause_appendOrFinish {i : Instr} (hi : i = .finish ∨ ∃ data, i = .append data) (p : Phase) :
    faultCause i p = p.misuse := by
  rcases hi with rfl | ⟨data, rfl⟩
  · rfl
  · rfl

/-- Settles O24: outside READY the phase test names a cause, and the answer is the fault entry with it. -/
theorem misuseIsRejectedWhole : Obligations.MisuseIsRejectedWhole := by
  intro i s hi hp
  obtain ⟨c, hc⟩ := s.PHASE.ready_or_misuse.resolve_left hp
  have huninit : s.PHASE = .uninit → c = .notInitialized := fun h => by rw [h] at hc; cases hc; rfl
  have hfinished : s.PHASE = .finished → c = .alreadyFinished := fun h => by rw [h] at hc; cases hc; rfl
  refine ⟨_, exec_fault ((faultCause_appendOrFinish hi s.PHASE).trans hc), rfl, rfl, rfl, rfl, rfl, rfl, fun _ => rfl, rfl,
    fun h => ?_, fun h => ?_, rfl, rfl, rfl, rfl⟩
  · rw [huninit h]; rfl
  · rw [hfinished h]; rfl

/-- A command that sets a clear fault mark has raised. -/
theorem Answered.exists_faultCause {i : Instr} {r : Response} {s t : State} (h : Answered i r s t)
    (hs : s.faultMark = false) (ht : t.faultMark = true) : ∃ c, faultCause i s.PHASE = some c := by
  have hmark := h.mark
  rw [ht, hs, Bool.false_or, h.cause] at hmark
  exact Option.isSome_iff_exists.mp hmark.symm

/-- Settles O26: the only answer that sets the mark is the fault entry, which leaves every register alone. -/
theorem faultsArePrecise : Obligations.FaultsArePrecise := by
  intro i s t hi hw hexec hs ht
  obtain ⟨r, hans⟩ := answered_of_exec hi hw hexec
  obtain ⟨c, hc⟩ := hans.exists_faultCause hs ht
  cases hexec.symm.trans (exec_fault hc)
  exact ⟨c, rfl, rfl, rfl, rfl, rfl, rfl, rfl, rfl, rfl, rfl, rfl⟩

/-- Settles O27: a step inside a COMPRESS keeps the mark, a command can only set it. -/
theorem faultMarkIsNeverCleared : Obligations.FaultMarkIsNeverCleared := by
  intro s t hstep hs
  rcases step_next_cases hstep with hsame | ⟨i, r, hans⟩
  · exact hsame.mark.trans hs
  · rw [hans.mark, hs, Bool.true_or]

end Sys2Proof.Machine
end

section
/-! PROOFS. Several engines (R189): a step of one engine writes that engine's state and no other, so under a schedule each engine
takes the steps the schedule gives it. O53. -/

namespace Sys2Proof.Machine

/-- Inversion of a system's step: engine j exists, has a step, and is the only one replaced. -/
theorem stepEngine_some {j : Nat} {sys sys' : List State} (h : stepEngine j sys = some sys') :
    ∃ s t, sys[j]? = some s ∧ step s = .next t ∧ sys' = sys.set j t := by
  unfold stepEngine at h
  split at h
  · cases h
  · rename_i s hs
    split at h
    · rename_i t ht
      cases h
      exact ⟨s, t, hs, ht, rfl⟩
    · cases h
    · cases h

/-- Inversion of a schedule's first turn. -/
theorem runSchedule_cons_some {j : Nat} {rest : List Nat} {sys sys' : List State}
    (h : runSchedule (j :: rest) sys = some sys') :
    ∃ mid, stepEngine j sys = some mid ∧ runSchedule rest mid = some sys' := by
  rw [runSchedule] at h
  split at h
  · exact ⟨_, ‹_›, h⟩
  · cases h

/-- The engine that is stepped ends in the state its own step gives. -/
theorem getElem?_stepEngine_same {k : Nat} {sys sys' : List State} {s : State} (h : stepEngine k sys = some sys')
    (hk : sys[k]? = some s) : ∃ t, step s = .next t ∧ sys'[k]? = some t := by
  obtain ⟨s', t, hs', ht, rfl⟩ := stepEngine_some h
  cases hk.symm.trans hs'
  obtain ⟨hlt, -⟩ := List.getElem?_eq_some_iff.mp hk
  exact ⟨t, ht, List.getElem?_set_self hlt⟩

/-- Every other engine is left as it was. -/
theorem getElem?_stepEngine_of_ne {j k : Nat} {sys sys' : List State} (h : stepEngine j sys = some sys') (hne : j ≠ k) :
    sys'[k]? = sys[k]? := by
  obtain ⟨s, t, -, -, rfl⟩ := stepEngine_some h
  exact List.getElem?_set_ne hne

/-- Settles O53, by induction on the schedule: its first turn is engine k's own next step, or does not touch engine k. -/
theorem enginesAreIndependent : Obligations.EnginesAreIndependent := by
  intro schedule sys sys' k s hrun hk
  induction schedule generalizing sys s with
  | nil => cases hrun; exact ⟨s, rfl, hk⟩
  | cons j rest ih =>
    obtain ⟨mid, hstep, hrest⟩ := runSchedule_cons_some hrun
    by_cases hjk : j = k
    · subst hjk
      obtain ⟨u, hu, hmid⟩ := getElem?_stepEngine_same hstep hk
      obtain ⟨t, ht, hsys'⟩ := ih mid u hrest hmid
      exact ⟨t, by rw [List.count_cons_self, runSteps, hu, andThen_next, ht], hsys'⟩
    · rw [List.count_cons_of_ne hjk]
      exact ih mid s hrest ((getElem?_stepEngine_of_ne hstep hjk).trans hk)

end Sys2Proof.Machine
end
